-- ==== Sys2Proof/Word.lean ====
section
/-! DEFINITION. The words of the block, at the widths of 00_scope.md rule R8: `W_CRC` and `W_SEL` are 8 bits,
`W_DATA` is 16, `W_ADDR` is 7, and a register or command word is 32 bits (10_state.md rule R22). -/

namespace Sys2Proof

/-- A checksum, a register selector, a command byte, or one byte of a frame (R8, R11). -/
abbrev Byte := BitVec 8

/-- A register value as the bus carries it (`W_DATA`, R8). -/
abbrev Half := BitVec 16

/-- A register of the window or a command word (R22, R80). -/
abbrev Word := BitVec 32

/-- A bus address (`W_ADDR`, R8). -/
abbrev BusAddr := BitVec 7

end Sys2Proof
end

