-- ==== Sys2Proof/Syntax.lean ====
section
/-! DEFINITION. The nine commands of 30_encoding.md rule R85, one constructor per row of the opcode table, with the
operands each uses. -/

namespace Sys2Proof

/-- A command. An operand is the field R85 says the command uses, at its exact width (R83, R84), so every term of
this type is well formed: whether an operand typed by a programmer fits its field is a check on assembly lines
(WellFormed.lean). -/
inductive Instr where
  /-- R160: complete with no effect. -/
  | nop
  /-- R110: clear the checksum accumulator. -/
  | crcclr
  /-- R111: feed the byte `b` into the accumulator. -/
  | crcupd (b : Byte)
  /-- R112: compare the accumulator with `p`. -/
  | crcchk (p : Byte)
  /-- R134: load the bus address with the candidate `a`, checked on all eight bits. -/
  | setaddr (a : Byte)
  /-- R140: read the 16-bit register `r`, unsigned. -/
  | rd16 (r : Byte)
  /-- R145: read the 16-bit register `r`, signed. -/
  | rd16s (r : Byte)
  /-- R150: write `v` to the 16-bit register `r`. -/
  | wr16 (r : Byte) (v : Half)
  /-- R155: send the bare command byte `c`. -/
  | sendcmd (c : Byte)
  deriving DecidableEq, Repr

end Sys2Proof
end

