-- ==== Sys2Proof/Decode.lean ====
section
/-! DEFINITION. The command word of 30_encoding.md: its fields, its byte lanes, the total decoder and the encoder. -/

namespace Sys2Proof

/-! ### Fields (R80) -/

/-- OP, bits 3:0 (R82). -/
def opField (w : Word) : BitVec 4 := w.extractLsb' 0 4

/-- RSVD, bits 7:4 (R87). -/
def rsvdField (w : Word) : BitVec 4 := w.extractLsb' 4 4

/-- SEL, bits 15:8 (R83). -/
def selField (w : Word) : Byte := w.extractLsb' 8 8

/-- DATA, bits 31:16 (R84). -/
def dataField (w : Word) : Half := w.extractLsb' 16 16

/-- `CW = {DATA, SEL, RSVD, OP}` (R80). -/
def commandWord (data : Half) (sel : Byte) (rsvd op : BitVec 4) : Word := data ++ sel ++ rsvd ++ op

/-! ### Byte lanes (20_memory.md rule R54) -/

/-- Byte lane `k` of a register word: lane 0, at the lowest host byte address, holds bits 7:0. -/
def lane (w : Word) (k : Nat) : Byte := w.extractLsb' (8 * k) 8

/-- The four lanes of a register word, lowest host byte address first. -/
def lanes (w : Word) : List Byte := [lane w 0, lane w 1, lane w 2, lane w 3]

/-! ### The decoder (R87, R88) -/

/-- Why a command word, or a string of bytes, spells no operation. -/
inductive Illegal where
  /-- RSVD is not 0 (R87). -/
  | reservedBits
  /-- OP is in 0x9..0xF (R87). -/
  | reservedOp
  /-- The bytes are not the four of a command word (R81); HOST cannot write such a string to CMD (R55). -/
  | notOneWord
  deriving DecidableEq, Repr

/-- What decoding answers: an operation, or a rejection by name. -/
inductive Decoded where
  | legal (i : Instr)
  | illegal (why : Illegal)
  deriving DecidableEq, Repr

/-- R88: decoding is total on all words, and RSVD is looked at first. -/
def decode (w : Word) : Decoded :=
  if rsvdField w ≠ 0#4 then .illegal .reservedBits
  else match (opField w).toNat with
    | 0 => .legal .nop
    | 1 => .legal .crcclr
    | 2 => .legal (.crcupd (selField w))
    | 3 => .legal (.crcchk (selField w))
    | 4 => .legal (.setaddr (selField w))
    | 5 => .legal (.rd16 (selField w))
    | 6 => .legal (.rd16s (selField w))
    | 7 => .legal (.wr16 (selField w) (dataField w))
    | 8 => .legal (.sendcmd (selField w))
    | _ => .illegal .reservedOp

/-- The decoder on bytes as host memory holds them: one command word is four lanes, lane 0 first (R54, R81). -/
def decodeBytes (bytes : List Byte) : Decoded :=
  match bytes with
  | [b0, b1, b2, b3] => decode (b3 ++ b2 ++ b1 ++ b0)
  | _ => .illegal .notOneWord

/-- The operation, where there is one. -/
def Decoded.toOption (d : Decoded) : Option Instr :=
  match d with
  | .legal i => some i
  | .illegal _ => none

/-- The instruction the decoder reads from an instruction whose bits are `w`, `nbits` of them. -/
def decodeTableWord (nbits w : Nat) : Option Instr :=
  (decodeBytes (lanes (BitVec.ofNat 32 (w % 2 ^ nbits)))).toOption

/-! ### The encoder (R80, R85, R89) -/

/-- The OP value of a command (R85). -/
def opcodeOf (i : Instr) : BitVec 4 :=
  match i with
  | .nop => 0x0#4
  | .crcclr => 0x1#4
  | .crcupd _ => 0x2#4
  | .crcchk _ => 0x3#4
  | .setaddr _ => 0x4#4
  | .rd16 _ => 0x5#4
  | .rd16s _ => 0x6#4
  | .wr16 _ _ => 0x7#4
  | .sendcmd _ => 0x8#4

/-- The SEL operand of a command; an unused field is written as 0 (R89). -/
def selOf (i : Instr) : Byte :=
  match i with
  | .nop => 0x00#8
  | .crcclr => 0x00#8
  | .crcupd b => b
  | .crcchk p => p
  | .setaddr a => a
  | .rd16 r => r
  | .rd16s r => r
  | .wr16 r _ => r
  | .sendcmd c => c

/-- The DATA operand of a command; only WR16 has one (R84). -/
def dataOf (i : Instr) : Half :=
  match i with
  | .nop => 0x0000#16
  | .crcclr => 0x0000#16
  | .crcupd _ => 0x0000#16
  | .crcchk _ => 0x0000#16
  | .setaddr _ => 0x0000#16
  | .rd16 _ => 0x0000#16
  | .rd16s _ => 0x0000#16
  | .wr16 _ v => v
  | .sendcmd _ => 0x0000#16

/-- The word of a command: RSVD is 0 (R89). -/
def encode (i : Instr) : Word := commandWord (dataOf i) (selOf i) 0x0#4 (opcodeOf i)

end Sys2Proof
end

