-- ==== Sys2Proof/Config.lean ====
section
/-! DEFINITION. The block's implementation parameters (00_scope.md rule R8). "A model takes the `OPEN` ones as
arguments": they are plain data that State carries and no step changes, so a statement about every state is a
statement about every choice of parameters. -/

namespace Sys2Proof

/-- The parameters of rule R8 that an implementation chooses. The fixed ones (the checksum's polynomial, initial
value and final XOR) stand in Machine/Crc.lean. -/
structure Params where
  /-- `P_BASE`: the host address of the register window (`OPEN`, 32-byte aligned, R50). -/
  base : Word
  /-- `P_DEFAULT_ADDR`: the reset value of ADDR (`OPEN`, valid by R133, R200). -/
  defaultAddr : BusAddr
  /-- `P_RESERVED_ADDR`: the addresses rejected besides 0x00 (R133); the spec's default is the empty set. -/
  reserved : List BusAddr
  /-- `P_RD_PEC_RADDR`: whether a read's checksum also covers the read-address byte (R131); normative value false. -/
  rdPecRaddr : Bool
  deriving DecidableEq, Repr

/-- The parameters `State.reset` is built from. `reserved` and `rdPecRaddr` are the spec's defaults.
DESIGN CHOICE (log 1), unsafe: `base` and `defaultAddr` are `OPEN` in R8, and these two numbers are the model's. -/
def Config.params : Params :=
  { base := 0x40000000#32, defaultAddr := 0x5A#7, reserved := [], rdPecRaddr := false }

end Sys2Proof
end

