-- ==== Sys2Proof/Machine/State.lean ====
section
/-! DEFINITION. Everything 10_state.md gives the block, its ports, and the moves of the agents outside it. -/

namespace Sys2Proof.Machine

/-- R31: the block's sequencing state. -/
inductive Phase where
  /-- No command in progress; a CMD write is accepted. -/
  | idle
  /-- A transfer request is outstanding at TRANSPORT; a CMD write is dropped. -/
  | waitBus
  deriving DecidableEq, Repr

/-- R61: the two kinds of transfer request, the bytes of a payload first on the bus first. -/
inductive Request where
  | busWrite (a : BusAddr) (payload : List Byte)
  | busWriteRead (a : BusAddr) (payload : List Byte) (readLen : Nat)
  deriving DecidableEq, Repr

/-- The command that issued a request and, for a read, its register selector (R32). -/
inductive Issuer where
  | rd16 (sel : Byte)
  | rd16s (sel : Byte)
  | wr16
  | sendcmd
  deriving DecidableEq, Repr

/-- R32: what PENDING holds while a request is outstanding. -/
structure Pending where
  req : Request
  issuer : Issuer
  deriving DecidableEq, Repr

/-- R62: what TRANSPORT answers. The transport's failure is opaque, so `err` carries nothing. -/
inductive Answer where
  | ok (bytes : List Byte)
  | err
  deriving DecidableEq, Repr

/-- What a HOST access asks for (R56); `write` carries the 32-bit write data of the port (R60). -/
inductive HostOp where
  | read
  | write (v : Word)
  deriving DecidableEq, Repr

/-- One HOST access: the host byte address of its first byte and its width in bytes (R55, R60). -/
structure HostAccess where
  op : HostOp
  addr : Word
  size : Nat
  deriving DecidableEq, Repr

/-- What the HOST register port answered to the last access (R55, R56, R60). -/
inductive HostResponse where
  /-- Nothing: no access yet, or the last one was outside the window and so not the block's (R50). -/
  | silent
  /-- The error response of `HostAccessError` (R55). -/
  | accessError
  /-- A write was taken. -/
  | written
  /-- A read returned this word. -/
  | data (w : Word)
  deriving DecidableEq, Repr

/-- One move of an agent outside the block (R10, R60, R70). -/
inductive Event where
  /-- HOST makes one register access. -/
  | host (a : HostAccess)
  /-- TRANSPORT answers the outstanding request. -/
  | answer (a : Answer)
  /-- TRANSPORT answers a request that a reset has dropped (R201). -/
  | lateAnswer (a : Answer)
  /-- The input `rst_i` is driven to this level. -/
  | reset (level : Bool)
  deriving DecidableEq, Repr

/-- The machine. BUSY is not stored: it is 1 exactly when `phase` is `waitBus` (R25); nor is `irq_o`, which equals
DONE (R175). The bits that read as zero (R30, R33, R34) are not stored either. -/
structure State where
  /-- The implementation parameters (R8), which no step changes. -/
  params : Params
  /-- CMD (R23). -/
  cmd : Word
  /-- STATUS.DONE, bit 1 (R26). -/
  done : Bool
  /-- STATUS.VALID, bit 2 (R27). -/
  valid : Bool
  /-- STATUS.OVR, bit 3 (R28). -/
  ovr : Bool
  /-- STATUS.ERR, bits 7:4 (R29). -/
  err : BitVec 4
  /-- ADDR, bits 6:0 (R33). -/
  addr : BusAddr
  /-- CRC, bits 7:0 (R34). -/
  crc : Byte
  /-- RESULT (R35). -/
  result : Word
  /-- PHASE (R31). -/
  phase : Phase
  /-- PENDING (R32); `none` is "empty". -/
  pending : Option Pending
  /-- The level of `rst_i` (R60, R200). -/
  rst : Bool
  /-- The HOST port's answer to the last access (R55, R60). -/
  resp : HostResponse
  /-- The moves the outside agents make next, first first (R70). Plain data the model adds (log 2): a statement
  about every state is a statement about every HOST, every TRANSPORT and every interleaving. -/
  inputs : List Event
  /-- How many requests a reset dropped that TRANSPORT still holds (R201); the model's own (log 5). -/
  dropped : Nat
  deriving DecidableEq, Repr

/-- Why the machine stops. -/
inductive Fault where
  /-- TRANSPORT answered although no such request is outstanding. Raised by `blockAnswer` and `lateAnswer`
  (Machine/Ops.lean, Machine/Framer.lean). R66: "No rule of the model lets TRANSPORT answer when no request is
  outstanding". Safe: the model stops where the spec has no rule. -/
  | answerWithoutRequest
  deriving DecidableEq, Repr

/-- Why the model gives no meaning. -/
inductive Refusal where
  /-- An instruction that has no meaning yet. Safe. No arm of `exec` raises it. -/
  | notModelled (mnemonic : String)
  /-- The parameters break R50 or R133. Raised by `step`. R200: "a model instantiated with an invalid one is
  ill-formed and must be refused". Safe. -/
  | illFormedParams
  deriving DecidableEq, Repr

/-- Reset values of all state (R37, R200), for any parameters. `resp`, `inputs` and `dropped` are not the spec's:
nothing answered, nothing to come, nothing dropped (log 2, 5, 7). -/
def State.resetWith (p : Params) : State :=
  { params := p
    cmd := 0x00000000#32
    done := false
    valid := false
    ovr := false
    err := 0x0#4
    addr := p.defaultAddr
    crc := 0x00#8
    result := 0x00000000#32
    phase := .idle
    pending := none
    rst := false
    resp := .silent
    inputs := []
    dropped := 0 }

/-- The machine right after reset, with the parameters of Config.lean. -/
def State.reset : State := State.resetWith Config.params

end Sys2Proof.Machine
end

