-- ==== Sys2Proof/Machine/Flags.lean ====
section
/-! DEFINITION. The STATUS register and the outputs computed from it: the outcome codes, the flags and `irq_o`. -/

namespace Sys2Proof.Machine

/-- The outcome codes of 60_exceptions.md rule R170. -/
inductive ErrCode where
  | ok
  | transport
  | checksum
  | invalidInput
  | illegalCmd
  deriving DecidableEq, Repr

/-- The number STATUS.ERR holds for an outcome (R170, R29). -/
def ErrCode.code (e : ErrCode) : BitVec 4 :=
  match e with
  | .ok => 0#4
  | .transport => 1#4
  | .checksum => 2#4
  | .invalidInput => 3#4
  | .illegalCmd => 4#4

/-- STATUS.BUSY (R25). -/
def State.busy (s : State) : Bool := s.phase == .waitBus

/-- `irq_o`, a level equal to STATUS.DONE (R175). -/
def State.irq (s : State) : Bool := s.done

/-- STATUS as HOST reads it (R24): ERR in bits 7:4, OVR 3, VALID 2, DONE 1, BUSY 0, and 0 above (R30). -/
def State.statusWord (s : State) : Word :=
  0#24 ++ s.err ++ BitVec.ofBool s.ovr ++ BitVec.ofBool s.valid ++ BitVec.ofBool s.done ++ BitVec.ofBool s.busy

/-- A HOST write to STATUS (R24, R26, R28): a 1 in bit 1 clears DONE, a 1 in bit 3 clears OVR, nothing else changes. -/
def State.clearStatus (v : Word) (s : State) : State :=
  { s with done := s.done && !v.getLsbD 1, ovr := s.ovr && !v.getLsbD 3 }

end Sys2Proof.Machine
end

