-- ==== Sys2Proof/Machine/Ops.lean ====
section
/-! DEFINITION. The shared operations the commands are written with. The block takes no exception (60_exceptions.md
rule R177): what stands in that place is `complete`, which records a command's outcome, and there is no return from
one (R178). -/

namespace Sys2Proof.Machine

/-- What every accept does to STATUS: DONE and ERR are cleared (R26, R29). -/
def State.beginCommand (s : State) : State := { s with done := false, err := ErrCode.ok.code }

/-- `complete(e)` (R172). -/
def State.complete (e : ErrCode) (s : State) : State :=
  { s with err := e.code, done := true, phase := .idle, pending := none }

/-- `PENDING <- p; PHASE <- WAIT_BUS` (R31, R32). -/
def State.issue (p : Pending) (s : State) : State := { s with phase := .waitBus, pending := some p }

/-- `CMD <- v` (R23). -/
def State.setCmd (v : Word) (s : State) : State := { s with cmd := v }

/-- `STATUS.OVR <- 1` (R28). -/
def State.setOvr (s : State) : State := { s with ovr := true }

/-- `ADDR <- zext_32(a)` (R33). -/
def State.setAddr (a : BusAddr) (s : State) : State := { s with addr := a }

/-- `CRC <- zext_32(c)` (R34). -/
def State.setCrc (c : Byte) (s : State) : State := { s with crc := c }

/-- `RESULT <- 0x00000000; VALID <- 0`, at the accept of a read (R27, R35). -/
def State.clearResult (s : State) : State := { s with result := 0x00000000#32, valid := false }

/-- `RESULT <- w; VALID <- 1`, at the success of a read (R27, R35). -/
def State.deliver (w : Word) (s : State) : State := { s with result := w, valid := true }

/-- The HOST port answers (R60). -/
def State.respond (r : HostResponse) (s : State) : State := { s with resp := r }

/-- The moves still to come. -/
def State.setInputs (rest : List Event) (s : State) : State := { s with inputs := rest }

/-- R200, R201: every piece of the block's state takes its reset value and `rst_i` is at `level`. A request that was
outstanding is dropped; TRANSPORT still holds it. -/
def State.hardReset (level : Bool) (s : State) : State :=
  { State.resetWith s.params with
    rst := level
    inputs := s.inputs
    dropped := s.dropped + (if s.pending.isSome then 1 else 0) }

/-- `rst_i` driven to `level` (R200): the values are taken while it is asserted and in the step it is released; a
release of an input that is not asserted changes nothing. -/
def State.driveReset (level : Bool) (s : State) : State :=
  if level || s.rst then s.hardReset level else s

/-- TRANSPORT answers a request that a reset dropped: the block ignores it (R201). -/
def lateAnswer (s : State) : Host.Outcome State Fault Refusal :=
  match s.dropped with
  | 0 => .fault .answerWithoutRequest
  | k + 1 => .next { s with dropped := k }

end Sys2Proof.Machine
end

