-- ==== Sys2Proof/Machine/Control.lean ====
section
/-! DEFINITION. The control command of 42_control.md and what an illegal word does. -/

namespace Sys2Proof.Machine

/-- NOP (R160). -/
def execNop (s : State) : Host.Outcome State Fault Refusal := .next (s.beginCommand.complete .ok)

/-- A word that spells no operation (R161). -/
def illegalCommand (s : State) : Host.Outcome State Fault Refusal := .next (s.beginCommand.complete .illegalCmd)

end Sys2Proof.Machine
end

