-- ==== Sys2Proof/Machine/Operands.lean ====
section
/-! DEFINITION. The operand forms: extension and byte order of a 16-bit value, the address byte, and which addresses
are valid. -/

namespace Sys2Proof.Machine

/-- `zext_32` (R12), the extension of RD16 (R140). -/
def zext32 (v : Half) : Word := v.zeroExtend 32

/-- `sext_32` (R12, R13), the extension of RD16S (R145). -/
def sext32 (v : Half) : Word := v.signExtend 32

/-- `data_low = v[7:0]`, first on the bus (R53, R84). -/
def lowByte (v : Half) : Byte := v.extractLsb' 0 8

/-- `data_high = v[15:8]`, second on the bus (R53, R84). -/
def highByte (v : Half) : Byte := v.extractLsb' 8 8

/-- `value = {data_high, data_low}` (R53). -/
def ofBytes (lo hi : Byte) : Half := hi ++ lo

/-- The address byte `A = {ADDR[6:0], 0}`, direction bit 0 (R131, R132). -/
def addrByte (a : BusAddr) : Byte := a ++ 0#1

/-- `a[6:0]` of an 8-bit candidate (R133). -/
def candidateAddr (a : Byte) : BusAddr := a.extractLsb' 0 7

/-- R133: an 8-bit candidate is a valid bus address exactly when it is not 0x00, is at most 0x7F, and is not
reserved. The check is on all 8 bits. -/
def validAddr (p : Params) (a : Byte) : Bool :=
  a != 0x00#8 && decide (a.toNat ≤ 0x7F) && !p.reserved.contains (candidateAddr a)

end Sys2Proof.Machine
end

