-- ==== Sys2Proof/Machine/CrcCommands.lean ====
section
/-! DEFINITION. The checksum commands of 40_crc.md. -/

namespace Sys2Proof.Machine

/-- CRCCLR (R110). -/
def execCrcclr (s : State) : Host.Outcome State Fault Refusal :=
  .next ((s.beginCommand.setCrc crcInit).complete .ok)

/-- CRCUPD b (R111). -/
def execCrcupd (b : Byte) (s : State) : Host.Outcome State Fault Refusal :=
  .next ((s.beginCommand.setCrc (crc8Byte s.crc b)).complete .ok)

/-- CRCCHK p (R112). -/
def execCrcchk (p : Byte) (s : State) : Host.Outcome State Fault Refusal :=
  .next (s.beginCommand.complete (if s.crc = p then .ok else .checksum))

end Sys2Proof.Machine
end

