-- ==== Sys2Proof/Machine/Framer.lean ====
section
/-! DEFINITION. The transaction framer of 41_framer.md: the address field, the frames, the accept step of each frame
command (its meaning) and the finish step on TRANSPORT's answer. -/

namespace Sys2Proof.Machine

/-! ### The address field -/

/-- SETADDR a (R134). -/
def execSetaddr (a : Byte) (s : State) : Host.Outcome State Fault Refusal :=
  .next (if validAddr s.params a then (s.beginCommand.setAddr (candidateAddr a)).complete .ok
    else s.beginCommand.complete .invalidInput)

/-! ### Frames (R130, R131) -/

/-- `BusWriteRead(a, [r], 3)` of a register read (R140). -/
def readFrame (a : BusAddr) (r : Byte) (issuer : Issuer) : Pending :=
  { req := .busWriteRead a [r] 3, issuer := issuer }

/-- The checksum a register write sends (R150). -/
def writeChecksum (a : BusAddr) (r : Byte) (v : Half) : Byte :=
  crc8 (writeCoverage a r (lowByte v) (highByte v))

/-- `BusWrite(a, [r, lo, hi, p])` of a register write (R150). -/
def writeFrame (a : BusAddr) (r : Byte) (v : Half) : Pending :=
  { req := .busWrite a [r, lowByte v, highByte v, writeChecksum a r v], issuer := .wr16 }

/-- The checksum a command sends (R155). -/
def commandChecksum (a : BusAddr) (c : Byte) : Byte := crc8 (commandCoverage a c)

/-- `BusWrite(a, [c, p])` of a command (R155). -/
def commandFrame (a : BusAddr) (c : Byte) : Pending :=
  { req := .busWrite a [c, commandChecksum a c], issuer := .sendcmd }

/-! ### Accept steps -/

/-- RD16 r, accept step (R140). -/
def execRd16 (r : Byte) (s : State) : Host.Outcome State Fault Refusal :=
  .next (s.beginCommand.clearResult.issue (readFrame s.addr r (.rd16 r)))

/-- RD16S r, accept step (R145). -/
def execRd16s (r : Byte) (s : State) : Host.Outcome State Fault Refusal :=
  .next (s.beginCommand.clearResult.issue (readFrame s.addr r (.rd16s r)))

/-- WR16 r, v, accept step (R150). -/
def execWr16 (r : Byte) (v : Half) (s : State) : Host.Outcome State Fault Refusal :=
  .next ((s.beginCommand.setCrc (writeChecksum s.addr r v)).issue (writeFrame s.addr r v))

/-- SENDCMD c, accept step (R155). -/
def execSendcmd (c : Byte) (s : State) : Host.Outcome State Fault Refusal :=
  .next ((s.beginCommand.setCrc (commandChecksum s.addr c)).issue (commandFrame s.addr c))

/-! ### Finish steps -/

/-- The bus address a request carries: the address captured at accept (R32, R141). -/
def Request.addr (q : Request) : BusAddr :=
  match q with
  | .busWrite a _ => a
  | .busWriteRead a _ _ => a

/-- The bytes a request sends after the address byte (R32, R61). -/
def Request.payload (q : Request) : List Byte :=
  match q with
  | .busWrite _ s => s
  | .busWriteRead _ s _ => s

/-- How many bytes a request reads (R32): 0 for a BusWrite. -/
def Request.readLen (q : Request) : Nat :=
  match q with
  | .busWrite _ _ => 0
  | .busWriteRead _ _ n => n

/-- Read finish (R141), `signed` for RD16S; `a` and `sel` are those captured at accept. -/
def finishRead (signed : Bool) (a : BusAddr) (sel : Byte) (ans : Answer) (s : State) : State :=
  match ans with
  | .ok [lo, hi, p] =>
    let c := crc8 (readCoverage s.params a sel lo hi)
    if c ≠ p then (s.setCrc c).complete .checksum
    else ((s.setCrc c).deliver (if signed then sext32 (ofBytes lo hi) else zext32 (ofBytes lo hi))).complete .ok
  | _ => s.complete .transport

/-- Write and command finish (R150, R155). -/
def finishWrite (ans : Answer) (s : State) : State :=
  match ans with
  | .ok [] => s.complete .ok
  | _ => s.complete .transport

/-- The finish of the command that issued the outstanding request. -/
def finishCommand (p : Pending) (ans : Answer) (s : State) : State :=
  match p.issuer with
  | .rd16 sel => finishRead false p.req.addr sel ans s
  | .rd16s sel => finishRead true p.req.addr sel ans s
  | .wr16 => finishWrite ans s
  | .sendcmd => finishWrite ans s

/-- TRANSPORT answers the outstanding request and the block consumes the answer in the same step (R62, R70). With no
request outstanding there is no such step (R66). -/
def blockAnswer (ans : Answer) (s : State) : Host.Outcome State Fault Refusal :=
  match s.phase, s.pending with
  | .waitBus, some p => .next (finishCommand p ans s)
  | _, _ => .fault .answerWithoutRequest

end Sys2Proof.Machine
end

