-- ==== Sys2Proof/Machine/Dispatch.lean ====
section
/-! DEFINITION. Which meaning each command has. -/

namespace Sys2Proof.Machine

/-- The accept step of a command (R31), CMD apart: `acceptCommand` (Machine/HostPort.lean) stores the word first. -/
def exec (i : Instr) (s : State) : Host.Outcome State Fault Refusal :=
  match i with
  | .nop => Sys2Proof.Machine.execNop s
  | .crcclr => Sys2Proof.Machine.execCrcclr s
  | .crcupd b => Sys2Proof.Machine.execCrcupd b s
  | .crcchk p => Sys2Proof.Machine.execCrcchk p s
  | .setaddr a => Sys2Proof.Machine.execSetaddr a s
  | .rd16 r => Sys2Proof.Machine.execRd16 r s
  | .rd16s r => Sys2Proof.Machine.execRd16s r s
  | .wr16 r v => Sys2Proof.Machine.execWr16 r v s
  | .sendcmd c => Sys2Proof.Machine.execSendcmd c s

end Sys2Proof.Machine
end

