-- ==== Sys2Proof/Machine/HostPort.lean ====
section
/-! DEFINITION. The HOST register port: the window, reads, writes, and the accept of a command. -/

namespace Sys2Proof.Machine

/-- The words of the register window (10_state.md rule R22). -/
inductive WindowReg where
  | cmd
  | status
  | addr
  | crc
  | result
  | reserved
  deriving DecidableEq, Repr

/-- The register at an aligned offset from `P_BASE` (R22). -/
def windowReg (offset : Nat) : WindowReg :=
  match offset with
  | 0x00 => .cmd
  | 0x04 => .status
  | 0x08 => .addr
  | 0x0C => .crc
  | 0x10 => .result
  | _ => .reserved

/-- The offset of a host address in the window, where the window holds it (R50): 32 bytes from `P_BASE`. An access is
placed by the address of its first byte (log 6). -/
def windowOffset (p : Params) (a : Word) : Option Nat :=
  if (a - p.base).toNat < 32 then some (a - p.base).toNat else none

/-- What HOST reads from a register (R22, R24, R33 to R36). A read changes nothing (R56). -/
def readReg (r : WindowReg) (s : State) : Word :=
  match r with
  | .cmd => s.cmd
  | .status => s.statusWord
  | .addr => s.addr.zeroExtend 32
  | .crc => s.crc.zeroExtend 32
  | .result => s.result
  | .reserved => 0x00000000#32

/-- An accept: the block takes the command word and starts it in the same step (R23, R31). -/
def acceptCommand (v : Word) (s : State) : Host.Outcome State Fault Refusal :=
  match decode v with
  | .legal i => exec i (s.setCmd v)
  | .illegal _ => illegalCommand (s.setCmd v)

/-- A HOST write to CMD (R23): accepted when the block is not busy, else dropped with OVR (R28). -/
def writeCmd (v : Word) (s : State) : Host.Outcome State Fault Refusal :=
  if s.busy then .next s.setOvr else acceptCommand v s

/-- A HOST write to a register of the window (R56): only CMD and STATUS take writes. -/
def writeReg (r : WindowReg) (v : Word) (s : State) : Host.Outcome State Fault Refusal :=
  match r with
  | .cmd => writeCmd v s
  | .status => .next (s.clearStatus v)
  | .addr => .next s
  | .crc => .next s
  | .result => .next s
  | .reserved => .next s

/-- One HOST access. Outside the window it is not the block's (R50). Inside, it is refused by an error response, with
no state changed, during reset (R200) and where it is not an aligned 32-bit access (R55). -/
def hostAccess (a : HostAccess) (s : State) : Host.Outcome State Fault Refusal :=
  match windowOffset s.params a.addr with
  | none => .next (s.respond .silent)
  | some offset =>
    if s.rst || a.size != 4 || offset % 4 != 0 then .next (s.respond .accessError)
    else match a.op with
      | .read => .next (s.respond (.data (readReg (windowReg offset) s)))
      | .write v => writeReg (windowReg offset) v (s.respond .written)

end Sys2Proof.Machine
end

