-- ==== Sys2Proof/WellFormed.lean ====
section
/-! DEFINITION. Which parameters and which assembly lines are well formed. Every term of `Instr` is. -/

namespace Sys2Proof

/-- R8, R50, R200: the window is 32-byte aligned and the default address is a valid one. -/
def Params.wf (p : Params) : Bool :=
  p.base.extractLsb' 0 5 == 0#5 && Machine.validAddr p (0#1 ++ p.defaultAddr)

/-- One line of assembly (R89), the pseudo-commands (R90) among them; operands are the numbers as written. -/
inductive AsmLine where
  | nop
  | crcclr
  | crcupd (b : Nat)
  | crcchk (p : Nat)
  | setaddr (a : Nat)
  | rd16 (r : Nat)
  | rd16s (r : Nat)
  | wr16 (r v : Nat)
  | sendcmd (c : Nat)
  /-- `.word w`: an arbitrary 32-bit word. -/
  | word (w : Nat)
  | erase16 (r : Nat)
  /-- `SLEEP c`, `c` the variant's sleep command code, which the caller supplies. -/
  | sleep (c : Nat)
  | crcseq (bytes : List Nat)
  | crcframe (r v : Nat)
  deriving DecidableEq, Repr

/-- R89: the assembler "rejects an operand that does not fit its field". `CRCSEQ` has at least one operand (R90). -/
def AsmLine.wf (l : AsmLine) : Bool :=
  match l with
  | .nop => true
  | .crcclr => true
  | .crcupd b => decide (b < 2 ^ 8)
  | .crcchk p => decide (p < 2 ^ 8)
  | .setaddr a => decide (a < 2 ^ 8)
  | .rd16 r => decide (r < 2 ^ 8)
  | .rd16s r => decide (r < 2 ^ 8)
  | .wr16 r v => decide (r < 2 ^ 8) && decide (v < 2 ^ 16)
  | .sendcmd c => decide (c < 2 ^ 8)
  | .word w => decide (w < 2 ^ 32)
  | .erase16 r => decide (r < 2 ^ 8)
  | .sleep c => decide (c < 2 ^ 8)
  | .crcseq bytes => !bytes.isEmpty && bytes.all (fun b => decide (b < 2 ^ 8))
  | .crcframe r v => decide (r < 2 ^ 8) && decide (v < 2 ^ 16)

end Sys2Proof
end

