-- ==== Sys2Proof/Machine/Step.lean ====
section
/-! DEFINITION. One step of the machine: the next move of the agents outside it (20_memory.md rule R70). -/

namespace Sys2Proof.Machine

/-- One agent's move, taken from the front of `inputs` already. -/
def perform (e : Event) (s : State) : Host.Outcome State Fault Refusal :=
  match e with
  | .host a => hostAccess a s
  | .answer a => blockAnswer a s
  | .lateAnswer _ => lateAnswer s
  | .reset level => .next (s.driveReset level)

/-- One step (R70). With no move to come the block stays as it is: it waits in IDLE for a CMD write (R200) or in
WAIT_BUS for an answer (R65). Ill-formed parameters are refused (R200). -/
def step (s : State) : Host.Outcome State Fault Refusal :=
  if s.params.wf then
    match s.inputs with
    | [] => .next s
    | e :: rest => perform e (s.setInputs rest)
  else .refused .illFormedParams

/-- HOST's 32-bit write of `v` at `offset` in the window: `MemWrite(B + offset, 4, v)` (R12). -/
def hostWriteAt (p : Params) (offset : Nat) (v : Word) : Event :=
  .host { op := .write v, addr := p.base + BitVec.ofNat 32 offset, size := 4 }

/-- HOST's 32-bit read at `offset` in the window: `MemRead(B + offset, 4)` (R12). -/
def hostReadAt (p : Params) (offset : Nat) : Event :=
  .host { op := .read, addr := p.base + BitVec.ofNat 32 offset, size := 4 }

/-- The block fetches nothing (R21, R52): a command arrives as a HOST write to CMD. This places that write as the
next move, and leaves the block out of reset and not busy so that the write is accepted (log 3). -/
def State.withFetchWord (s : State) (nbits w : Nat) : State :=
  { s with
    phase := .idle
    pending := none
    rst := false
    inputs := hostWriteAt s.params 0x00 (BitVec.ofNat 32 (w % 2 ^ nbits)) :: s.inputs }

end Sys2Proof.Machine
end

