-- ==== Sys2Proof/Machine/Assembler.lean ====
section
/-! DEFINITION. The assembler of 30_encoding.md: one line to its command words, pseudo-commands expanded. -/

namespace Sys2Proof.Machine

/-- CRCSEQ (R90): clear, then feed each byte. -/
def crcSequence (bytes : List Byte) : List Instr := .crcclr :: bytes.map .crcupd

/-- The commands a line stands for (R89, R90); CRCFRAME uses the current ADDR. `none` for `.word`, which is a word
and no command. -/
def asmCommands (addr : BusAddr) (l : AsmLine) : Option (List Instr) :=
  match l with
  | .nop => some [.nop]
  | .crcclr => some [.crcclr]
  | .crcupd b => some [.crcupd (BitVec.ofNat 8 b)]
  | .crcchk p => some [.crcchk (BitVec.ofNat 8 p)]
  | .setaddr a => some [.setaddr (BitVec.ofNat 8 a)]
  | .rd16 r => some [.rd16 (BitVec.ofNat 8 r)]
  | .rd16s r => some [.rd16s (BitVec.ofNat 8 r)]
  | .wr16 r v => some [.wr16 (BitVec.ofNat 8 r) (BitVec.ofNat 16 v)]
  | .sendcmd c => some [.sendcmd (BitVec.ofNat 8 c)]
  | .word _ => none
  | .erase16 r => some [.wr16 (BitVec.ofNat 8 r) 0x0000#16]
  | .sleep c => some [.sendcmd (BitVec.ofNat 8 c)]
  | .crcseq bytes => some (crcSequence (bytes.map (BitVec.ofNat 8)))
  | .crcframe r v => some (crcSequence
      [addrByte addr, BitVec.ofNat 8 r, lowByte (BitVec.ofNat 16 v), highByte (BitVec.ofNat 16 v)])

/-- The words of a line, or `none` where the assembler rejects it (R89). -/
def assemble (addr : BusAddr) (l : AsmLine) : Option (List Word) :=
  if l.wf then
    match l with
    | .word w => some [BitVec.ofNat 32 w]
    | _ => (asmCommands addr l).map (List.map encode)
  else none

end Sys2Proof.Machine
end

