-- ==== Sys2Proof/Safety.lean ====
section
/-! DEFINITION. What claims about the block are stated in: a block ready for a command, its invariant, a quiescent
block and what HOST observes of it, and which moves of the outside agents keep their duties. -/

namespace Sys2Proof.Machine

/-- Well-formed parameters, out of reset, and no command in progress: the next CMD write is accepted. -/
def State.ready (s : State) : Prop := s.params.wf = true ∧ s.rst = false ∧ s.phase = .idle ∧ s.pending = none

/-- R216: a run of the block is quiescent when PHASE = IDLE. -/
def State.quiescent (s : State) : Prop := s.phase = .idle

/-- R216: what HOST observes, the five registers in window order. -/
def State.observe (s : State) : List Word :=
  [readReg .cmd s, readReg .status s, readReg .addr s, readReg .crc s, readReg .result s]

/-- The request each command issues when ADDR is `a`, or `none` where it issues none (R85, R140, R145, R150, R155). -/
def requestOf (i : Instr) (a : BusAddr) : Option Pending :=
  match i with
  | .nop => none
  | .crcclr => none
  | .crcupd _ => none
  | .crcchk _ => none
  | .setaddr _ => none
  | .rd16 r => some { req := .busWriteRead a [r] 3, issuer := .rd16 r }
  | .rd16s r => some { req := .busWriteRead a [r] 3, issuer := .rd16s r }
  | .wr16 r v => some
    { req := .busWrite a [r, lowByte v, highByte v, crc8 [addrByte a, r, lowByte v, highByte v]], issuer := .wr16 }
  | .sendcmd c => some { req := .busWrite a [c, crc8 [addrByte a, c]], issuer := .sendcmd }

/-- What holds while `p` is outstanding: `p` is the request of the command in CMD at the address in ADDR; STATUS shows
no outcome (R26, R29); a read has no result yet (R35); CRC holds the checksum a write or command sent (R150, R155). -/
structure State.Waiting (s : State) (p : Pending) : Prop where
  issued : ∃ i, decode s.cmd = .legal i ∧ requestOf i s.addr = some p
  notDone : s.done = false
  noError : s.err = 0#4
  running : s.rst = false
  readCleared : p.req.readLen = 3 → s.valid = false ∧ s.result = 0x00000000#32
  checksumKept : p.req.readLen = 0 → p.req.payload.getLast? = some s.crc

/-- The invariant of the block. -/
structure State.Inv (s : State) : Prop where
  /-- R50, R200: the parameters are well formed. -/
  paramsWf : s.params.wf = true
  /-- R33: ADDR always holds a valid address. -/
  addrValid : validAddr s.params (0#1 ++ s.addr) = true
  /-- R29: codes 5 to 15 are never written. -/
  errKnown : s.err.toNat ≤ 4
  /-- R31, R32: a request is outstanding exactly in WAIT_BUS. -/
  waiting_iff : s.phase = .waitBus ↔ s.pending.isSome = true
  /-- R27, R35: with VALID = 0, RESULT carries no value of any read. -/
  discarded : s.valid = false → s.result = 0x00000000#32
  /-- R35: RESULT is a 16-bit value, zero- or sign-extended. -/
  extended : s.result = zext32 (s.result.extractLsb' 0 16) ∨ s.result = sext32 (s.result.extractLsb' 0 16)
  /-- R32, R73: the outstanding request. -/
  outstanding : ∀ p, s.pending = some p → s.Waiting p
  /-- R200: while `rst_i` is asserted every piece of the block's state has its reset value. -/
  heldInReset : s.rst = true →
    s = { State.resetWith s.params with rst := true, resp := s.resp, inputs := s.inputs, dropped := s.dropped }

/-- R66: TRANSPORT answers only a request it holds. HOST's and reset's moves are always allowed. -/
def Event.dutiful (e : Event) (s : State) : Prop :=
  match e with
  | .host _ => True
  | .answer _ => s.phase = .waitBus ∧ s.pending ≠ none
  | .lateAnswer _ => s.dropped ≠ 0
  | .reset _ => True

/-- The next move is a HOST write of `v` to CMD that the block accepts (R23): it is out of reset and idle. -/
def State.accepts (v : Word) (s : State) : Prop :=
  s.rst = false ∧ s.phase = .idle ∧ ∃ rest, s.inputs = hostWriteAt s.params 0x00 v :: rest

/-- The next move is a HOST write of `v` to CMD that the block drops (R23, R28): it is out of reset and busy. -/
def State.drops (v : Word) (s : State) : Prop :=
  s.rst = false ∧ s.phase = .waitBus ∧ ∃ rest, s.inputs = hostWriteAt s.params 0x00 v :: rest

/-- The next move is a HOST write of `v` to STATUS (R24). -/
def State.writesStatus (v : Word) (s : State) : Prop :=
  s.rst = false ∧ ∃ rest, s.inputs = hostWriteAt s.params 0x04 v :: rest

/-- The next move is TRANSPORT's answer to the outstanding request `p` (R62). -/
def State.answers (p : Pending) (ans : Answer) (s : State) : Prop :=
  s.phase = .waitBus ∧ s.pending = some p ∧ ∃ rest, s.inputs = .answer ans :: rest

/-- The next move asserts `rst_i`, holds it asserted, or releases it (R200). -/
def State.resets (s : State) : Prop :=
  ∃ level rest, s.inputs = .reset level :: rest ∧ (level = true ∨ s.rst = true)

/-- Commands one after another, each by its accept step; stops at the first that stops. -/
def execAll (program : List Instr) (s : State) : Host.Outcome State Fault Refusal :=
  match program with
  | [] => .next s
  | i :: rest =>
    match exec i s with
    | .next t => execAll rest t
    | .fault r => .fault r
    | .refused r => .refused r

end Sys2Proof.Machine
end

