-- ==== Sys2Proof/Certificates/Slice0/Obligations.lean ====
section
/-! DEFINITION. The statements for the provers. Each docstring names the rule of spec/ it comes from; the model's own
choices it rests on are named by their log entries. Throughout, `s.inputs = e :: rest` says that the next move of R70's
interleaving is `e`, and `inputs := rest` that it has been made: the list is the model's way to hold the moves (log 2).
A statement covers every such move, so none rests on a value the list has in `State.reset`. -/

namespace Sys2Proof.Machine

/-! ### Vocabulary of the statements, written from the spec's tables -/

/-- The bits of a command word that a command's meaning depends on (R85, R86): OP and RSVD, and SEL and DATA where the
command uses them. -/
def usedMask (i : Instr) : Word :=
  match i with
  | .nop => 0x000000FF#32
  | .crcclr => 0x000000FF#32
  | .crcupd _ => 0x0000FFFF#32
  | .crcchk _ => 0x0000FFFF#32
  | .setaddr _ => 0x0000FFFF#32
  | .rd16 _ => 0x0000FFFF#32
  | .rd16s _ => 0x0000FFFF#32
  | .wr16 _ _ => 0xFFFFFFFF#32
  | .sendcmd _ => 0x0000FFFF#32

/-- The word each command rule writes out (R110 to R160): for instance `(v << 16) OR (r << 8) OR 0x7`. -/
def ruleWord (i : Instr) : Word :=
  match i with
  | .nop => 0x00000000#32
  | .crcclr => 0x00000001#32
  | .crcupd b => b.zeroExtend 32 <<< 8 ||| 0x2#32
  | .crcchk p => p.zeroExtend 32 <<< 8 ||| 0x3#32
  | .setaddr a => a.zeroExtend 32 <<< 8 ||| 0x4#32
  | .rd16 r => r.zeroExtend 32 <<< 8 ||| 0x5#32
  | .rd16s r => r.zeroExtend 32 <<< 8 ||| 0x6#32
  | .wr16 r v => v.zeroExtend 32 <<< 16 ||| r.zeroExtend 32 <<< 8 ||| 0x7#32
  | .sendcmd c => c.zeroExtend 32 <<< 8 ||| 0x8#32

/-- R131: the bytes a read's checksum covers. -/
def readCovered (p : Params) (a : BusAddr) (r lo hi : Byte) : List Byte :=
  [a ++ 0#1, r] ++ (if p.rdPecRaddr then [a ++ 1#1] else []) ++ [lo, hi]

/-- R141's finish, for a read of `r` at address `a` extended by `ext`, as a whole next state. -/
def readFinished (ext : Half → Word) (a : BusAddr) (r : Byte) (ans : Answer) (t : State) : State :=
  match ans with
  | .ok [lo, hi, p] =>
    let c := crc8 (readCovered t.params a r lo hi)
    if c = p then
      { t with crc := c, result := ext (hi ++ lo), valid := true, err := 0#4, done := true, phase := .idle, pending := none }
    else { t with crc := c, err := 2#4, done := true, phase := .idle, pending := none }
  | _ => { t with err := 1#4, done := true, phase := .idle, pending := none }

/-- R150's finish, of a write or a command, as a whole next state. -/
def writeFinished (ans : Answer) (t : State) : State :=
  { t with err := if ans = .ok [] then 0#4 else 1#4, done := true, phase := .idle, pending := none }

/-- R34: what the accept of a command leaves in CRC (R110, R111, R150, R155). RD16 and RD16S write it at their finish. -/
def crcAfterAccept (i : Instr) (s : State) : Byte :=
  match i with
  | .nop => s.crc
  | .crcclr => 0x00#8
  | .crcupd b => crc8Byte s.crc b
  | .crcchk _ => s.crc
  | .setaddr _ => s.crc
  | .rd16 _ => s.crc
  | .rd16s _ => s.crc
  | .wr16 r v => crc8 [s.addr ++ 0#1, r, v.extractLsb' 0 8, v.extractLsb' 8 8]
  | .sendcmd c => crc8 [s.addr ++ 0#1, c]

/-- R89, R90: the words of each line whose operands fit, and `none` for one whose operands do not. -/
def lineWords (addr : BusAddr) (l : AsmLine) : Option (List Word) :=
  let byteForm (op n : Nat) := if n < 256 then some [BitVec.ofNat 32 (n * 256 + op)] else none
  let crcWords (bytes : List Nat) := 0x00000001#32 :: bytes.map (fun b => BitVec.ofNat 32 (b * 256 + 2))
  match l with
  | .nop => some [0x00000000#32]
  | .crcclr => some [0x00000001#32]
  | .crcupd b => byteForm 2 b
  | .crcchk p => byteForm 3 p
  | .setaddr a => byteForm 4 a
  | .rd16 r => byteForm 5 r
  | .rd16s r => byteForm 6 r
  | .wr16 r v => if r < 256 ∧ v < 65536 then some [BitVec.ofNat 32 (v * 65536 + r * 256 + 7)] else none
  | .sendcmd c => byteForm 8 c
  | .word w => if w < 4294967296 then some [BitVec.ofNat 32 w] else none
  | .erase16 r => byteForm 7 r
  | .sleep c => byteForm 8 c
  | .crcseq bytes => if bytes ≠ [] ∧ ∀ b ∈ bytes, b < 256 then some (crcWords bytes) else none
  | .crcframe r v =>
    if r < 256 ∧ v < 65536 then some (crcWords [2 * addr.toNat, r, v % 256, v / 256]) else none

/-- R171: the codes each command can end with. -/
def endCodes (i : Instr) : List (BitVec 4) :=
  match i with
  | .nop => [0#4]
  | .crcclr => [0#4]
  | .crcupd _ => [0#4]
  | .crcchk _ => [0#4, 2#4]
  | .setaddr _ => [0#4, 3#4]
  | .rd16 _ => [0#4, 1#4, 2#4]
  | .rd16s _ => [0#4, 1#4, 2#4]
  | .wr16 _ _ => [0#4, 1#4]
  | .sendcmd _ => [0#4, 1#4]

end Sys2Proof.Machine

open Sys2Proof Sys2Proof.Machine

/-! ### Encoding -/

/-- Decoding the encoded word of any command, at every value of its operands, gives the command back (R80, R85, R88). -/
def Obligations.DecodeOfEncodeIsIdentity : Prop := ∀ i : Instr, decode (encode i) = .legal i

/-- The decoder answers a command exactly on the words that agree, on the bits the command uses, with the word the
command's rule writes out (R86, R88 and the Encoding lines of R110 to R160). -/
def Obligations.DecodeAcceptsExactlyTheRuleWords : Prop :=
  ∀ (w : Word) (i : Instr), decode w = .legal i ↔ w &&& usedMask i = ruleWord i

/-- R86: two words that agree on OP, RSVD and the fields the command uses select the same command, and accepting
either has the same effect in every state, but for the word CMD keeps. -/
def Obligations.UnusedFieldsAreIgnored : Prop :=
  ∀ (w w' : Word) (i : Instr), decode w = .legal i → w &&& usedMask i = w' &&& usedMask i →
    decode w' = .legal i ∧
      ∀ s t : State, acceptCommand w s = .next t → acceptCommand w' s = .next { t with cmd := w' }

/-- R161 and R87: a word spells no command exactly when a bit of 7:4 is set or OP is 9 or more, and accepting it
changes CMD and STATUS alone: DONE 1, ERR 4. (The HOST port gives no error; what else it answers is not said.) -/
def Obligations.IllegalWordsOnlyRecordIllegalCmd : Prop :=
  (∀ v : Word, (∃ why, decode v = .illegal why) ↔ (v &&& 0x000000F0#32 ≠ 0#32 ∨ 9 ≤ (v &&& 0x0000000F#32).toNat)) ∧
  ∀ (s : State) (v : Word) (rest : List Event), s.ready → s.inputs = hostWriteAt s.params 0x00 v :: rest →
    (∃ why, decode v = .illegal why) →
    ∃ r, r ≠ .accessError ∧
      step s = .next { s with cmd := v, done := true, err := 4#4, resp := r, inputs := rest }

/-- The worked encodings of R91, an inference the spec marks as its own. -/
def Obligations.WorkedEncodingsDecode : Prop :=
  decode 0x00000000#32 = .legal .nop ∧ decode 0x00000001#32 = .legal .crcclr ∧
  decode 0x0000B402#32 = .legal (.crcupd 0xB4#8) ∧ decode 0x0000E003#32 = .legal (.crcchk 0xE0#8) ∧
  decode 0x00005A04#32 = .legal (.setaddr 0x5A#8) ∧ decode 0x00000705#32 = .legal (.rd16 0x07#8) ∧
  decode 0x00002506#32 = .legal (.rd16s 0x25#8) ∧ decode 0x005B2E07#32 = .legal (.wr16 0x2E#8 0x005B#16) ∧
  decode 0x0000FF08#32 = .legal (.sendcmd 0xFF#8) ∧ decode 0x00000010#32 = .illegal .reservedBits ∧
  decode 0x00000009#32 = .illegal .reservedOp

/-- R54: byte lane `k` of a register word holds its bits from `8k` up, for the four lanes; a command word's lanes are
OP/RSVD, SEL and the two bytes of DATA, low first, which is the order WR16 puts those bytes on the bus; and the word
HOST lays out in lane order is the word the block decodes. -/
def Obligations.HostLanesAreLittleEndian : Prop :=
  (∀ (w : Word) (k j : Nat), k < 4 → j < 8 → ((lanes w).getD k 0#8).getLsbD j = w.getLsbD (8 * k + j)) ∧
  (∀ (d : Half) (sel : Byte) (r o : BitVec 4),
    lanes (commandWord d sel r o) = [r ++ o, sel, d.extractLsb' 0 8, d.extractLsb' 8 8]) ∧
  (∀ (a : BusAddr) (d : Half) (sel : Byte) (r o : BitVec 4),
    (writeFrame a sel d).req.payload.take 3 = (lanes (commandWord d sel r o)).drop 1) ∧
  ∀ w : Word, decodeBytes (lanes w) = decode w

/-! ### The checksum -/

/-- R100 and R101: `crc8_byte` XORs the byte in and turns eight times, reducing by 0x07 when bit 7 is 1, and `crc8`
feeds the bytes in order from 0x00 with no final XOR; the checksum of the empty sequence is 0x00. -/
def Obligations.CrcIsTheShiftRegister : Prop :=
  (∀ c b : Byte, crc8Byte c b =
    (fun x : Byte => if x.getLsbD 7 then (x <<< 1) ^^^ 0x07#8 else x <<< 1)^[8] (c ^^^ b)) ∧
  crc8 [] = 0x00#8 ∧ ∀ (s : List Byte) (b : Byte), crc8 (s ++ [b]) = crc8Byte (crc8 s) b

/-- R102, an inference the spec marks as its own: the table form agrees with the shift register on every pair. -/
def Obligations.CrcTableFormAgrees : Prop := ∀ c b : Byte, crc8Byte c b = crc8ByteTable c b

/-- R103 (a), an inference the spec marks as its own: over GF(2), the checksum is the remainder of `M(x) * x^8` divided
by `x^8 + x^2 + x + 1`, where `M(x)` has the bits of the sequence as coefficients, the first bit of the first byte
highest. -/
def Obligations.CrcIsThePolynomialRemainder : Prop :=
  let poly : Byte → Polynomial (ZMod 2) := fun b =>
    ∑ k ∈ Finset.range 8, if b.getLsbD k then Polynomial.X ^ k else 0
  ∀ s : List Byte,
    poly (crc8 s) = (s.foldl (fun m b => m * Polynomial.X ^ 8 + poly b) 0 * Polynomial.X ^ 8) %ₘ
      (Polynomial.X ^ 8 + Polynomial.X ^ 2 + Polynomial.X + 1)

/-- R103 (b), (c), (d), inferences the spec marks as its own: a leading 0x00 changes nothing; the checksum is linear on
sequences of one length; a sequence followed by its own checksum has checksum 0x00. -/
def Obligations.CrcIsLinearWithZeroResidue : Prop :=
  (∀ s : List Byte, crc8 (0x00#8 :: s) = crc8 s) ∧
  (∀ s t : List Byte, s.length = t.length → crc8 (List.zipWith (· ^^^ ·) s t) = crc8 s ^^^ crc8 t) ∧
  ∀ s : List Byte, crc8 (s ++ [crc8 s]) = 0x00#8

/-- R103 (e), an inference the spec marks as its own: every single-bit change in a sequence changes its checksum. -/
def Obligations.CrcDetectsEverySingleBitChange : Prop :=
  ∀ (before after : List Byte) (b : Byte) (k : Nat), k < 8 →
    crc8 (before ++ (b ^^^ BitVec.twoPow 8 k) :: after) ≠ crc8 (before ++ b :: after)

/-- R104, an inference the spec marks as its own: the two forms of the check agree. -/
def Obligations.BothFormsOfVerificationAgree : Prop :=
  ∀ (s : List Byte) (p : Byte), crc8 s = p ↔ crc8 (s ++ [p]) = 0x00#8

/-! ### Commands without a transfer -/

/-- R160: NOP is every word with OP = 0 and RSVD = 0, and it sets DONE and clears ERR and changes nothing else. -/
def Obligations.NopCompletesWithNoEffect : Prop :=
  (∀ (d : Half) (sel : Byte), decode (commandWord d sel 0x0#4 0x0#4) = .legal .nop) ∧
  ∀ s : State, s.phase = .idle → s.pending = none → exec .nop s = .next { s with done := true, err := 0#4 }

/-- R110: CRCCLR clears the accumulator and changes nothing else but DONE and ERR; a second one changes nothing more;
a word with OP = 1 and RSVD not 0 is illegal and does not clear CRC. -/
def Obligations.CrcclrClearsTheAccumulator : Prop :=
  (∀ (d : Half) (sel : Byte), decode (commandWord d sel 0x0#4 0x1#4) = .legal .crcclr) ∧
  (∀ s : State, s.phase = .idle → s.pending = none →
    exec .crcclr s = .next { s with crc := 0x00#8, done := true, err := 0#4 }) ∧
  (∀ s : State, execAll [.crcclr, .crcclr] s = execAll [.crcclr] s) ∧
  ∀ (d : Half) (sel : Byte) (r : BitVec 4) (s t : State), r ≠ 0#4 →
    acceptCommand (commandWord d sel r 0x1#4) s = .next t → t.err = 4#4 ∧ t.crc = s.crc

/-- R111: CRCUPD feeds SEL into the accumulator and changes nothing else but DONE and ERR; and the rule's example. The
corner cases are inferences the spec marks as its own (from R101, R102 and R103): with CRC = 0 a zero byte leaves 0; the
accumulator's own value gives 0; no two bytes give the same result; CRCCLR and then CRCUPD of each byte leaves the
checksum of the bytes. -/
def Obligations.CrcupdFeedsOneByte : Prop :=
  (∀ (d : Half) (b : Byte), decode (commandWord d b 0x0#4 0x2#4) = .legal (.crcupd b)) ∧
  (∀ (b : Byte) (s : State), s.phase = .idle → s.pending = none →
    exec (.crcupd b) s = .next { s with crc := crc8Byte s.crc b, done := true, err := 0#4 }) ∧
  crc8Byte 0x00#8 0x00#8 = 0x00#8 ∧ (∀ c : Byte, crc8Byte c c = 0x00#8) ∧
  (∀ c b b' : Byte, crc8Byte c b = crc8Byte c b' → b = b') ∧
  (∀ (bytes : List Byte) (s : State), s.phase = .idle → s.pending = none →
    execAll (.crcclr :: bytes.map .crcupd) s = .next { s with crc := crc8 bytes, done := true, err := 0#4 }) ∧
  crc8Byte 0x00#8 0xB4#8 = 0x05#8 ∧ crc8Byte 0x05#8 0x07#8 = 0x0E#8

/-- R112: CRCCHK completes with OK when CRC equals SEL and with CHECKSUM when it does not, and changes nothing else. -/
def Obligations.CrcchkComparesTheAccumulator : Prop :=
  (∀ (d : Half) (p : Byte), decode (commandWord d p 0x0#4 0x3#4) = .legal (.crcchk p)) ∧
  (∀ (p : Byte) (s : State), s.phase = .idle → s.pending = none →
    exec (.crcchk p) s = .next { s with done := true, err := if s.crc = p then 0#4 else 2#4 }) ∧
  ∀ s t : State, s.phase = .idle → s.pending = none → execAll [.crcclr, .crcchk 0x00#8] s = .next t → t.err = 0#4

/-- R134 with R133: SETADDR loads a[6:0] and completes with OK when the 8-bit candidate is not 0x00, is at most 0x7F
and is not reserved; else it completes with INVALID_INPUT and leaves ADDR; neither branch issues a request or changes
anything else. Setting the value ADDR holds changes nothing of it; with 0x80 and 0xDA it is invalid. -/
def Obligations.SetaddrLoadsOnlyValidAddresses : Prop :=
  (∀ (d : Half) (a : Byte), decode (commandWord d a 0x0#4 0x4#4) = .legal (.setaddr a)) ∧
  (∀ (a : Byte) (s : State), s.phase = .idle → s.pending = none →
    exec (.setaddr a) s = .next
      (if a ≠ 0x00#8 ∧ a.toNat ≤ 0x7F ∧ a.extractLsb' 0 7 ∉ s.params.reserved then
        { s with addr := a.extractLsb' 0 7, done := true, err := 0#4 }
      else { s with done := true, err := 3#4 })) ∧
  (∀ s : State, s.phase = .idle → s.pending = none → validAddr s.params (0#1 ++ s.addr) = true →
    exec (.setaddr (0#1 ++ s.addr)) s = .next { s with done := true, err := 0#4 }) ∧
  ∀ p : Params, validAddr p 0x80#8 = false ∧ validAddr p 0xDA#8 = false

/-! ### Commands with a transfer -/

/-- R140: RD16's accept step clears RESULT, VALID, DONE and ERR and issues one three-byte read of SEL from ADDR; then
on every answer the finish step is R141's with zero extension. -/
def Obligations.Rd16ReadsZeroExtended : Prop :=
  (∀ (d : Half) (r : Byte), decode (commandWord d r 0x0#4 0x5#4) = .legal (.rd16 r)) ∧
  ∀ (r : Byte) (s : State), s.phase = .idle → s.pending = none →
    ∃ t : State, exec (.rd16 r) s = .next t ∧
      t = { s with
        result := 0x00000000#32, valid := false, done := false, err := 0#4, phase := .waitBus
        pending := some { req := .busWriteRead s.addr [r] 3, issuer := .rd16 r } } ∧
      ∀ ans : Answer, blockAnswer ans t = .next (readFinished (BitVec.zeroExtend 32) s.addr r ans t)

/-- R145: RD16S is RD16 with sign extension. That the request of the two is the same, and that on the same answer the two
differ in RESULT alone, so in no checksum, is an inference the spec marks as its own (from R140 and R141). -/
def Obligations.Rd16sReadsSignExtended : Prop :=
  (∀ (d : Half) (r : Byte), decode (commandWord d r 0x0#4 0x6#4) = .legal (.rd16s r)) ∧
  (∀ (r : Byte) (s : State), s.phase = .idle → s.pending = none →
    ∃ t : State, exec (.rd16s r) s = .next t ∧
      t = { s with
        result := 0x00000000#32, valid := false, done := false, err := 0#4, phase := .waitBus
        pending := some { req := .busWriteRead s.addr [r] 3, issuer := .rd16s r } } ∧
      ∀ ans : Answer, blockAnswer ans t = .next (readFinished (BitVec.signExtend 32) s.addr r ans t)) ∧
  (∀ (r : Byte) (s t t' u u' : State) (ans : Answer), exec (.rd16 r) s = .next t → exec (.rd16s r) s = .next t' →
    blockAnswer ans t = .next u → blockAnswer ans t' = .next u' →
    t.pending.map Pending.req = t'.pending.map Pending.req ∧ u' = { u with result := u'.result }) ∧
  (BitVec.signExtend 32 0x7FFF#16 = 0x00007FFF#32 ∧ BitVec.signExtend 32 0x8000#16 = 0xFFFF8000#32 ∧
    BitVec.signExtend 32 0xFFFF#16 = 0xFFFFFFFF#32)

/-- R141: on TRANSPORT's answer to an outstanding read, one step completes the read: TRANSPORT with CRC, RESULT and
VALID kept on `Err` or on an answer that is not three bytes; else CRC takes the checksum of the covered bytes at the
captured address and selector, and the value is delivered exactly when it equals the received byte. -/
def Obligations.ReadFinishChecksTheChecksum : Prop :=
  ∀ (s : State) (a : BusAddr) (r : Byte) (ans : Answer) (rest : List Event), s.params.wf = true →
    s.phase = .waitBus → s.inputs = .answer ans :: rest →
    (s.pending = some { req := .busWriteRead a [r] 3, issuer := .rd16 r } →
      step s = .next (readFinished (BitVec.zeroExtend 32) a r ans { s with inputs := rest })) ∧
    (s.pending = some { req := .busWriteRead a [r] 3, issuer := .rd16s r } →
      step s = .next (readFinished (BitVec.signExtend 32) a r ans { s with inputs := rest }))

/-- R150: WR16's accept step computes the checksum over the address byte, SEL and the two bytes of DATA, keeps it in
CRC and sends the three bytes and the checksum in one write to ADDR; RESULT and VALID are kept. On every answer the
finish completes with OK on the empty answer and TRANSPORT on any other, and keeps CRC. -/
def Obligations.Wr16SendsTheFrame : Prop :=
  (∀ (r : Byte) (v : Half), decode (commandWord v r 0x0#4 0x7#4) = .legal (.wr16 r v)) ∧
  (∀ (r : Byte) (v : Half) (s : State), s.phase = .idle → s.pending = none →
    ∃ (t : State) (lo hi p : Byte), lo = v.extractLsb' 0 8 ∧ hi = v.extractLsb' 8 8 ∧
      p = crc8 [s.addr ++ 0#1, r, lo, hi] ∧ exec (.wr16 r v) s = .next t ∧
      t = { s with
        crc := p, done := false, err := 0#4, phase := .waitBus
        pending := some { req := .busWrite s.addr [r, lo, hi, p], issuer := .wr16 } } ∧
      ∀ ans : Answer, blockAnswer ans t = .next (writeFinished ans t)) ∧
  crc8 [0xB4#8, 0x2E#8, 0x5B#8, 0x00#8] = 0x34#8

/-- R155: SENDCMD's accept step computes the checksum over the address byte and the command byte, keeps it in CRC and
sends the two bytes in one write to ADDR; the finish is R150's. -/
def Obligations.SendcmdSendsTheFrame : Prop :=
  (∀ (d : Half) (c : Byte), decode (commandWord d c 0x0#4 0x8#4) = .legal (.sendcmd c)) ∧
  (∀ (c : Byte) (s : State), s.phase = .idle → s.pending = none →
    ∃ (t : State) (p : Byte), p = crc8 [s.addr ++ 0#1, c] ∧ exec (.sendcmd c) s = .next t ∧
      t = { s with
        crc := p, done := false, err := 0#4, phase := .waitBus
        pending := some { req := .busWrite s.addr [c, p], issuer := .sendcmd } } ∧
      ∀ ans : Answer, blockAnswer ans t = .next (writeFinished ans t)) ∧
  crc8 [0xB4#8, 0xFF#8] = 0xE8#8

/-- R132 and R141 (an inference the spec marks as its own, and its rule that the frame commands do not read CRC): in a
state with a valid ADDR the address byte is ADDR shifted left, even, from 0x02 to 0xFE; and the request a command
issues does not depend on what CRC held. -/
def Obligations.FramesStartFromTheAddressByteNotFromCrc : Prop :=
  (∀ s : State, validAddr s.params (0#1 ++ s.addr) = true →
    (addrByte s.addr).toNat = 2 * s.addr.toNat ∧ 0x02 ≤ (addrByte s.addr).toNat ∧ (addrByte s.addr).toNat ≤ 0xFE) ∧
  ∀ (i : Instr) (s t t' : State) (x : Byte), requestOf i s.addr ≠ none → exec i s = .next t →
    exec i { s with crc := x } = .next t' → t.pending = requestOf i s.addr ∧ t'.pending = t.pending

/-- R171, an inference the spec marks as its own: run through the step, every command that issues no request completes
in its accept step, every command that issues one waits and completes on any answer, and the code is one of the
command's row. -/
def Obligations.EveryCommandCompletesWithACodeOfItsRow : Prop :=
  (∀ (s : State) (v : Word) (i : Instr) (rest : List Event), s.ready → decode v = .legal i → requestOf i s.addr = none →
    s.inputs = hostWriteAt s.params 0x00 v :: rest →
    ∃ t, step s = .next t ∧ t.phase = .idle ∧ t.done = true ∧ t.pending = none ∧ t.cmd = v ∧ t.inputs = rest ∧
      t.err ∈ endCodes i) ∧
  ∀ (s : State) (v : Word) (i : Instr) (ans : Answer) (rest : List Event), s.ready → decode v = .legal i →
    requestOf i s.addr ≠ none → s.inputs = hostWriteAt s.params 0x00 v :: .answer ans :: rest →
    ∃ t u, step s = .next t ∧ t.phase = .waitBus ∧ t.done = false ∧ t.pending = requestOf i s.addr ∧
      step t = .next u ∧ u.phase = .idle ∧ u.done = true ∧ u.pending = none ∧ u.cmd = v ∧ u.inputs = rest ∧
      u.err ∈ endCodes i

/-- R27, R35 and R141 on a failed read: a read that ends with any other code than OK leaves RESULT 0 and VALID 0, and
of two answers with a wrong checksum nothing but the CRC they computed tells them apart. -/
def Obligations.AFailedReadLeavesNothingToRead : Prop :=
  ∀ (s t : State) (r : Byte), (s.phase = .idle ∧ s.pending = none) →
    (exec (.rd16 r) s = .next t ∨ exec (.rd16s r) s = .next t) →
    (∀ (ans : Answer) (u : State), blockAnswer ans t = .next u → u.err ≠ 0#4 →
      u.result = 0x00000000#32 ∧ u.valid = false ∧ readReg .result u = 0x00000000#32) ∧
    ∀ (lo hi p lo' hi' p' : Byte) (u u' : State), blockAnswer (.ok [lo, hi, p]) t = .next u →
      blockAnswer (.ok [lo', hi', p']) t = .next u' → u.err = 2#4 → u'.err = 2#4 → u' = { u with crc := u'.crc }

/-- R53, R12 and R13: splitting a value into its low and high byte and assembling it again is the identity, both ways;
zero extension keeps the value as a natural number and sign extension keeps it as a two's complement number. -/
def Obligations.BusDataIsLittleEndian : Prop :=
  (∀ v : Half, ofBytes (lowByte v) (highByte v) = v) ∧
  (∀ lo hi : Byte, lowByte (ofBytes lo hi) = lo ∧ highByte (ofBytes lo hi) = hi ∧
    (ofBytes lo hi).toNat = 256 * hi.toNat + lo.toNat) ∧
  ∀ v : Half, (zext32 v).toNat = v.toNat ∧ (sext32 v).toInt = v.toInt

/-! ### The HOST port -/

/-- A step runs the decoded command: when the next move is HOST's aligned 32-bit write of `v` to CMD, the block is
ready and `v` decodes to `i`, the step is `exec i` with CMD holding `v` (R23, R31, R73). The move is taken from
`inputs` and the port answers `written` (logs 2, 7). -/
def Obligations.StepRunsTheDecodedCommand : Prop :=
  ∀ (s : State) (v : Word) (i : Instr) (rest : List Event), s.ready → decode v = .legal i →
    s.inputs = hostWriteAt s.params 0x00 v :: rest →
    step s = exec i { s with cmd := v, resp := .written, inputs := rest }

/-- R23 and R174: a CMD write of any word when not busy is an accept: CMD takes all 32 bits, legal or not, and the
block starts the command in the same step; one when busy is dropped: CMD keeps its value and OVR is set and nothing
else of the block changes; a read returns the last accepted word, since only an accept, or reset, changes CMD; and CMD
is 0 after reset. (The HOST port gives a write no error; what else it answers is not said.) -/
def Obligations.CmdHoldsTheLastAcceptedWord : Prop :=
  (∀ (s : State) (v : Word) (rest : List Event), s.params.wf = true → s.accepts v →
    s.inputs = hostWriteAt s.params 0x00 v :: rest →
    ∃ t r, r ≠ .accessError ∧ step s = .next t ∧ t.cmd = v ∧
      ((∃ i, decode v = .legal i ∧ exec i { s with cmd := v, resp := r, inputs := rest } = .next t) ∨
        ((∃ why, decode v = .illegal why) ∧ t = { s with
          cmd := v, resp := r, inputs := rest
          err := 4#4, done := true, phase := .idle, pending := none }))) ∧
  (∀ (s : State) (v : Word) (rest : List Event), s.params.wf = true → s.drops v →
    s.inputs = hostWriteAt s.params 0x00 v :: rest →
    ∃ r, r ≠ .accessError ∧ step s = .next { s with ovr := true, resp := r, inputs := rest }) ∧
  (∀ (s : State) (rest : List Event), s.params.wf = true → s.rst = false →
    s.inputs = hostReadAt s.params 0x00 :: rest → step s = .next { s with resp := .data s.cmd, inputs := rest }) ∧
  (∀ s t : State, step s = .next t → t.cmd ≠ s.cmd → s.accepts t.cmd ∨ s.resets) ∧
  ∀ p : Params, (State.resetWith p).cmd = 0x00000000#32

/-- R28: OVR is set by a CMD write dropped while busy and by nothing else, no command changes it, and once set it stays
until HOST writes STATUS with bit 3 set, or reset (R200). -/
def Obligations.OvrIsStickyUntilCleared : Prop :=
  (∀ (s : State) (v : Word), s.params.wf = true → s.drops v → ∃ t, step s = .next t ∧ t.ovr = true) ∧
  (∀ s t : State, step s = .next t → s.ovr = false → t.ovr = true → ∃ v, s.drops v) ∧
  (∀ (i : Instr) (s t : State), exec i s = .next t → t.ovr = s.ovr) ∧
  (∀ s t : State, step s = .next t → s.ovr = true → t.ovr = false →
    (∃ v, s.writesStatus v ∧ v.getLsbD 3 = true) ∨ s.resets) ∧
  ∀ (s : State) (v : Word), s.params.wf = true → s.writesStatus v → v.getLsbD 3 = true →
    ∃ t, step s = .next t ∧ t.ovr = false

/-- R22, R36 and R56: each aligned 32-bit access in the window, out of reset, takes one step. A read returns the
register at its offset (0 at the reserved ones) and changes nothing; a write to CMD accepts or drops, a write to STATUS
clears DONE and/or OVR, and a write to any other offset changes nothing. (The HOST port gives a write no error; what
else it answers is not said.) -/
def Obligations.WindowAccessesReachTheirRegisters : Prop :=
  ∀ (s : State) (k : Nat) (rest : List Event), s.params.wf = true → s.rst = false → k < 8 →
    (s.inputs = hostReadAt s.params (4 * k) :: rest →
      step s = .next { s with
        inputs := rest
        resp := .data (match k with
          | 0 => s.cmd
          | 1 => s.statusWord
          | 2 => s.addr.zeroExtend 32
          | 3 => s.crc.zeroExtend 32
          | 4 => s.result
          | _ => 0x00000000#32) }) ∧
    ∀ v : Word, s.inputs = hostWriteAt s.params (4 * k) v :: rest →
      ∃ r, r ≠ .accessError ∧ step s = match k with
        | 0 => if s.phase = .idle then acceptCommand v { s with inputs := rest, resp := r }
          else .next { s with inputs := rest, resp := r, ovr := true }
        | 1 => .next { s with
            inputs := rest, resp := r
            done := s.done && !v.getLsbD 1, ovr := s.ovr && !v.getLsbD 3 }
        | _ => .next { s with inputs := rest, resp := r }

/-- R24 and R30: where each field stands in the STATUS word, zero above bit 7, and what a HOST write does to it: a 1 in
bit 1 clears DONE, a 1 in bit 3 clears OVR, and no other bit of the word written has an effect. -/
def Obligations.StatusFieldsStandWhereTheTableSays : Prop :=
  (∀ s : State, (s.statusWord.getLsbD 0 = true ↔ s.phase = .waitBus) ∧ s.statusWord.getLsbD 1 = s.done ∧
    s.statusWord.getLsbD 2 = s.valid ∧ s.statusWord.getLsbD 3 = s.ovr ∧ s.statusWord.extractLsb' 4 4 = s.err ∧
    s.statusWord.extractLsb' 8 24 = 0#24) ∧
  ∀ (s t : State) (v : Word), s.params.wf = true → s.writesStatus v → step s = .next t →
    t.statusWord.getLsbD 0 = s.statusWord.getLsbD 0 ∧
    t.statusWord.getLsbD 1 = (s.statusWord.getLsbD 1 && !v.getLsbD 1) ∧
    t.statusWord.getLsbD 2 = s.statusWord.getLsbD 2 ∧
    t.statusWord.getLsbD 3 = (s.statusWord.getLsbD 3 && !v.getLsbD 3) ∧
    t.statusWord.extractLsb' 4 28 = s.statusWord.extractLsb' 4 28

/-- R55: an access in the window that is not 32 bits wide, or whose address is no multiple of 4, gets the error response;
a read returns no data, and no state of the block changes. That an access is placed by its first byte, so that one of
width 0 and one that runs past the window's edge are refused too, is the model's choice (log 6). -/
def Obligations.NarrowOrUnalignedAccessesAreRefused : Prop :=
  ∀ (s : State) (a : HostAccess) (rest : List Event), s.params.wf = true → s.inputs = .host a :: rest →
    s.params.base.toNat ≤ a.addr.toNat → a.addr.toNat < s.params.base.toNat + 32 →
    (a.size ≠ 4 ∨ a.addr.toNat % 4 ≠ 0) →
    step s = .next { s with resp := .accessError, inputs := rest }

/-- R50 with log 6 (which byte places an access, and the silent response, are the model's choice): an access that
begins outside the 32 bytes from `P_BASE` is not the block's, and changes nothing of it. -/
def Obligations.AccessesOutsideTheWindowAreNotTheBlocks : Prop :=
  ∀ (s : State) (a : HostAccess) (rest : List Event), s.params.wf = true → s.inputs = .host a :: rest →
    (a.addr.toNat < s.params.base.toNat ∨ s.params.base.toNat + 32 ≤ a.addr.toNat) →
    step s = .next { s with resp := .silent, inputs := rest }

/-! ### Reset -/

/-- R37: the reset value of every piece of state, for every choice of parameters, and of `irq_o`. -/
def Obligations.ResetValuesAreTheTables : Prop :=
  ∀ p : Params, readReg .cmd (State.resetWith p) = 0x00000000#32 ∧
    readReg .status (State.resetWith p) = 0x00000000#32 ∧
    readReg .addr (State.resetWith p) = p.defaultAddr.zeroExtend 32 ∧
    readReg .crc (State.resetWith p) = 0x00000000#32 ∧
    readReg .result (State.resetWith p) = 0x00000000#32 ∧
    (State.resetWith p).phase = .idle ∧ (State.resetWith p).pending = none ∧ (State.resetWith p).irq = false

/-- R200: whatever the block held, asserting `rst_i` and releasing it each leave every piece of state at its reset
value; a HOST access in the window during reset gets the error response and changes nothing; after reset, with no move
to come, the block stays as it is; and parameters with an invalid default address are refused. (What a reset leaves in
`resp` and `dropped`, the model's own, is not said.) -/
def Obligations.ResetTakesEveryPieceOfState : Prop :=
  (∀ (s : State) (level : Bool) (rest : List Event), s.params.wf = true → s.inputs = .reset level :: rest →
    (level = true ∨ s.rst = true) →
    ∃ t n r, step s = .next t ∧
      t = { State.resetWith s.params with rst := level, inputs := rest, dropped := n, resp := r } ∧ t.irq = false) ∧
  (∀ (s : State) (a : HostAccess) (rest : List Event), s.params.wf = true → s.rst = true →
    s.inputs = .host a :: rest → s.params.base.toNat ≤ a.addr.toNat → a.addr.toNat < s.params.base.toNat + 32 →
    step s = .next { s with resp := .accessError, inputs := rest }) ∧
  (∀ p : Params, p.wf = true → step (State.resetWith p) = .next (State.resetWith p)) ∧
  ∀ s : State, validAddr s.params (0#1 ++ s.params.defaultAddr) = false → step s = .refused .illFormedParams

/-- R201 (the count of dropped requests is the model's own: log 5): a reset drops an outstanding request, which
TRANSPORT still holds, and TRANSPORT's later answer to it changes nothing of the block. -/
def Obligations.ResetDropsTheRequestAndIgnoresItsAnswer : Prop :=
  (∀ (s : State) (p : Pending) (rest : List Event), s.params.wf = true → s.pending = some p →
    s.inputs = .reset true :: rest →
    ∃ t, step s = .next t ∧ t.phase = .idle ∧ t.pending = none ∧ t.dropped = s.dropped + 1) ∧
  ∀ (s : State) (ans : Answer) (k : Nat) (rest : List Event), s.params.wf = true → s.dropped = k + 1 →
    s.inputs = .lateAnswer ans :: rest → step s = .next { s with dropped := k, inputs := rest }

/-! ### The whole machine -/

/-- The invariant of Safety.lean holds after reset, for every well-formed choice of parameters, and the parameters of
Config.lean are one. -/
def Obligations.InvariantHoldsAtReset : Prop :=
  (∀ p : Params, p.wf = true → (State.resetWith p).Inv) ∧ State.reset.Inv

/-- Every step keeps the invariant: ADDR stays valid (R33), ERR stays a known code (R29), a request is outstanding
exactly in WAIT_BUS (R31, R32) and is the one the word in CMD issues at ADDR, RESULT carries no discarded value (R27,
R35), CRC keeps the checksum that was sent, and a block in reset holds its reset values (R200). -/
def Obligations.EveryStepKeepsTheInvariant : Prop := ∀ s t : State, s.Inv → step s = .next t → t.Inv

/-- R33: only SETADDR of a valid candidate changes ADDR, or reset; and the parameters never change. -/
def Obligations.OnlySetaddrWritesAddr : Prop :=
  ∀ s t : State, step s = .next t → t.params = s.params ∧
    (t.addr ≠ s.addr →
      (∃ v a, s.accepts v ∧ decode v = .legal (.setaddr a) ∧ validAddr s.params a = true ∧
        t.addr = a.extractLsb' 0 7) ∨ s.resets)

/-- R34: CRC is an 8-bit accumulator, read with zeros above. The accept of every command leaves in it what the command's
rule says, new for CRCCLR, CRCUPD, WR16 and SENDCMD and as it was for the others; the finish of RD16 and RD16S on three
bytes, right or wrong, writes the checksum of the bytes covered; and nothing else changes it but reset. -/
def Obligations.OnlyChecksumCommandsWriteCrc : Prop :=
  (∀ s : State, (readReg .crc s).extractLsb' 0 8 = s.crc ∧ (readReg .crc s).extractLsb' 8 24 = 0#24) ∧
  (∀ (s : State) (v : Word) (i : Instr), s.params.wf = true → s.accepts v → decode v = .legal i →
    ∃ t, step s = .next t ∧ t.crc = crcAfterAccept i s) ∧
  (∀ (s : State) (p : Pending) (sel lo hi q : Byte), s.params.wf = true → s.answers p (.ok [lo, hi, q]) →
    (p.issuer = .rd16 sel ∨ p.issuer = .rd16s sel) →
    ∃ t, step s = .next t ∧ t.crc = crc8 (readCovered s.params p.req.addr sel lo hi)) ∧
  ∀ s t : State, step s = .next t → t.crc ≠ s.crc →
    (∃ v i, s.accepts v ∧ decode v = .legal i ∧
      ((i = .crcclr ∧ t.crc = 0x00#8) ∨ (∃ b, i = .crcupd b ∧ t.crc = crc8Byte s.crc b) ∨
        (∃ r d, i = .wr16 r d ∧ t.crc = crc8 (writeCoverage s.addr r (lowByte d) (highByte d))) ∨
        (∃ c, i = .sendcmd c ∧ t.crc = crc8 (commandCoverage s.addr c)))) ∨
    (∃ p sel lo hi q, s.answers p (.ok [lo, hi, q]) ∧ (p.issuer = .rd16 sel ∨ p.issuer = .rd16s sel) ∧
      t.crc = crc8 (readCoverage s.params p.req.addr sel lo hi)) ∨
    s.resets

/-- R27 and R35: VALID and RESULT change only at the accept of a read, which clears both, at the finish of a read that
ends with OK, which sets VALID, or at reset. -/
def Obligations.OnlyReadsWriteResultAndValid : Prop :=
  ∀ s t : State, step s = .next t → (t.valid ≠ s.valid ∨ t.result ≠ s.result) →
    (∃ v r, s.accepts v ∧ (decode v = .legal (.rd16 r) ∨ decode v = .legal (.rd16s r)) ∧
      t.valid = false ∧ t.result = 0x00000000#32) ∨
    (∃ p ans sel, s.answers p ans ∧ (p.issuer = .rd16 sel ∨ p.issuer = .rd16s sel) ∧ t.valid = true ∧ t.err = 0#4) ∨
    s.resets

/-- R64: the bus commands are RD16, RD16S, WR16 and SENDCMD; the accept of one issues its request, one, and the accept of
any other word issues none; a request appears in no other step; an outstanding request is never replaced by another, and
ends only on its answer, which leaves none outstanding whatever the outcome, or at reset. -/
def Obligations.OneRequestPerCommandAndNoRetry : Prop :=
  (∀ (i : Instr) (a : BusAddr), requestOf i a ≠ none ↔
    (∃ r, i = .rd16 r) ∨ (∃ r, i = .rd16s r) ∨ (∃ r v, i = .wr16 r v) ∨ ∃ c, i = .sendcmd c) ∧
  (∀ (s : State) (v : Word) (i : Instr) (p : Pending), s.params.wf = true → s.accepts v → decode v = .legal i →
    requestOf i s.addr = some p → ∃ t, step s = .next t ∧ t.pending = some p ∧ t.phase = .waitBus) ∧
  (∀ (s : State) (v : Word), s.params.wf = true → s.accepts v →
    (∀ i, decode v = .legal i → requestOf i s.addr = none) →
    ∃ t, step s = .next t ∧ t.pending = none ∧ t.phase = .idle) ∧
  ∀ s t : State, step s = .next t →
    (∀ p, s.pending = none → t.pending = some p →
      ∃ v i, s.accepts v ∧ decode v = .legal i ∧ requestOf i s.addr = some p) ∧
    (∀ p, s.Inv → s.pending = some p →
      t.pending = some p ∨ (t.pending = none ∧ ((∃ ans, s.answers p ans) ∨ s.resets))) ∧
    ∀ p ans, s.answers p ans → t.pending = none ∧ t.phase = .idle

/-- R65 and R202 (an inference the spec marks as its own): while a request is outstanding and no move comes, the block
stays as it is; and no move but TRANSPORT's answer or reset ends the wait or changes the request. -/
def Obligations.OnlyAnAnswerOrResetEndsAWait : Prop :=
  (∀ s : State, s.params.wf = true → s.phase = .waitBus → s.inputs = [] → step s = .next s) ∧
  ∀ s t : State, s.Inv → s.phase = .waitBus → step s = .next t →
    (t.phase ≠ .waitBus ∨ t.pending ≠ s.pending) → (∃ p ans, s.answers p ans) ∨ s.resets

/-- R172 at the finish, R215 (completion rests on TRANSPORT answering): in a state that meets the invariant and waits,
the step that takes TRANSPORT's answer completes the command, whatever the answer: DONE 1, BUSY 0, `irq_o` 1, nothing
outstanding, OVR and CMD and ADDR as they were. -/
def Obligations.AnAnswerCompletesTheCommand : Prop :=
  ∀ (s : State) (ans : Answer) (rest : List Event), s.Inv → s.phase = .waitBus → s.inputs = .answer ans :: rest →
    ∃ t, step s = .next t ∧ t.done = true ∧ t.busy = false ∧ t.irq = true ∧ t.pending = none ∧ t.inputs = rest ∧
      t.ovr = s.ovr ∧ t.cmd = s.cmd ∧ t.addr = s.addr

/-- R175 and R176: `irq_o` is the level of STATUS.DONE at every step. It is 1 after every completion, which is the accept
of a word that issues no request, or TRANSPORT's answer; it is 0 after a HOST write to STATUS with bit 1 set, after the
accept of a command that issues a request, and after reset; and it rises and falls in no other step. (A command that
issues no request completes in its accept step, so what its accept lowers, its completion raises in the same step.) -/
def Obligations.IrqRisesOnlyAtCompletion : Prop :=
  (∀ s : State, s.irq = s.statusWord.getLsbD 1) ∧
  (∀ (s : State) (v : Word), s.params.wf = true → s.accepts v →
    ∃ t, step s = .next t ∧ (t.irq = true ↔ ∀ i, decode v = .legal i → requestOf i s.addr = none)) ∧
  (∀ (s : State) (p : Pending) (ans : Answer), s.params.wf = true → s.answers p ans →
    ∃ t, step s = .next t ∧ t.irq = true) ∧
  (∀ (s : State) (v : Word), s.params.wf = true → s.writesStatus v → v.getLsbD 1 = true →
    ∃ t, step s = .next t ∧ t.irq = false) ∧
  (∀ s : State, s.params.wf = true → s.resets → ∃ t, step s = .next t ∧ t.irq = false) ∧
  (∀ s t : State, step s = .next t → s.irq = false → t.irq = true →
    ((∃ v, s.accepts v) ∨ ∃ p ans, s.answers p ans) ∧ t.phase = .idle ∧ t.pending = none) ∧
  ∀ s t : State, step s = .next t → s.irq = true → t.irq = false →
    (∃ v, s.writesStatus v ∧ v.getLsbD 1 = true) ∨ (∃ v, s.accepts v ∧ t.phase = .waitBus) ∨ s.resets

/-- The machine stops only where the spec gives no step: it faults exactly when TRANSPORT breaks its duty of R66, it
refuses exactly ill-formed parameters (R200), and no command stops it. The model's own are: the fault on an answer with
no request outstanding (log 8), the same fault on a late answer when the count of dropped requests is 0 (logs 5, 8),
and the refusal of an unaligned `P_BASE` (log 9). -/
def Obligations.StopsOnlyWhereTheSpecHasNoStep : Prop :=
  (∀ (s : State) (r : Fault), step s = .fault r ↔
    s.params.wf = true ∧ r = .answerWithoutRequest ∧ ∃ e rest, s.inputs = e :: rest ∧ ¬ e.dutiful s) ∧
  (∀ (s : State) (r : Refusal), step s = .refused r ↔ s.params.wf = false ∧ r = .illFormedParams) ∧
  ∀ (i : Instr) (s : State), ∃ t, exec i s = .next t

/-- R210's first hazard, and R211 (an inference the spec marks as its own), over whole commands: after a read that
completed with OK, CRCCHK keeps RESULT and VALID and overwrites ERR; and the next read's accept clears both. -/
def Obligations.ANextCommandOverwritesTheOutcome : Prop :=
  ∀ s t : State, s.phase = .idle → s.pending = none → s.valid = true →
    (∀ p, exec (.crcchk p) s = .next t → t.result = s.result ∧ t.valid = true ∧
      (t.err = 0#4 ↔ s.crc = p)) ∧
    ∀ r, exec (.rd16 r) s = .next t → t.result = 0x00000000#32 ∧ t.valid = false ∧ t.done = false ∧ t.err = 0#4

/-! ### The assembler -/

/-- R90: each pseudo-command assembles to the words of the commands it stands for and to nothing else, CRCFRAME with
the current ADDR. -/
def Obligations.PseudoCommandsExpandAsTheTableSays : Prop :=
  (∀ (addr : BusAddr) (r : Nat), assemble addr (.erase16 r) = assemble addr (.wr16 r 0x0000)) ∧
  (∀ (addr : BusAddr) (c : Nat), assemble addr (.sleep c) = assemble addr (.sendcmd c)) ∧
  (∀ (addr : BusAddr) (b : Nat) (bytes : List Nat), (∀ x ∈ b :: bytes, x < 256) →
    assemble addr (.crcseq (b :: bytes)) =
      some (0x00000001#32 :: (b :: bytes).map (fun x => BitVec.ofNat 32 (x * 256 + 2)))) ∧
  ∀ (addr : BusAddr) (r v : Nat), r < 256 → v < 65536 →
    assemble addr (.crcframe r v) = assemble addr (.crcseq [2 * addr.toNat, r, v % 256, v / 256])

/-- R89 and R90, form by form: a line is assembled exactly when each operand fits its field, 8 bits for SEL and 16 for
DATA, and its words are those of its commands with RSVD and unused fields 0; `.word` places any 32-bit word. That a
`.word` of 2^32 or more and a CRCSEQ of nothing are rejected is the model's reading (log 12). And the model's `wf` says
which lines are assembled. -/
def Obligations.TheAssemblerRejectsOperandsThatDoNotFit : Prop :=
  ∀ (addr : BusAddr) (l : AsmLine), assemble addr l = lineWords addr l ∧ (assemble addr l).isSome = l.wf
end

