-- ==== Sys2Proof/Laws/Crc.lean ====
section
/-! SUPPORT. The checksum step is linear over XOR, and how the checksum of a sequence is built byte by byte. -/

namespace Sys2Proof.Machine

/-- Shifting and reducing is linear: the bit shifted out of an XOR is the XOR of the bits shifted out. -/
theorem crcShift_xor (a b : Byte) : crcShift (a ^^^ b) = crcShift a ^^^ crcShift b := by
  have shl : (a ^^^ b) <<< 1 = a <<< 1 ^^^ b <<< 1 := BitVec.shiftLeft_xor_distrib a b 1
  have cancel (x y : Byte) : x ^^^ crcPoly ^^^ (y ^^^ crcPoly) = x ^^^ y := by
    rw [BitVec.xor_comm y, BitVec.xor_assoc, ← BitVec.xor_assoc crcPoly, BitVec.xor_self, BitVec.zero_xor]
  unfold crcShift
  rw [BitVec.msb_xor, shl]
  cases ha : a.msb <;> cases hb : b.msb <;> simp [BitVec.xor_assoc, cancel]
  · exact BitVec.xor_comm _ _

@[simp] theorem crcShift_zero : crcShift 0#8 = 0#8 := by decide

theorem crcShifts_xor (n : Nat) (a b : Byte) : crcShifts n (a ^^^ b) = crcShifts n a ^^^ crcShifts n b := by
  induction n generalizing a b with
  | zero => rfl
  | succ n ih => simp only [crcShifts, crcShift_xor, ih]

@[simp] theorem crcShifts_zero (n : Nat) : crcShifts n 0#8 = 0#8 := by
  induction n with
  | zero => rfl
  | succ n ih => simp [crcShifts, ih]

theorem crcShifts_add (m n : Nat) (c : Byte) : crcShifts (m + n) c = crcShifts n (crcShifts m c) := by
  induction m generalizing c with
  | zero => simp [crcShifts]
  | succ m ih => rw [Nat.succ_add]; exact ih _

/-- R100's remark: each shifted-in bit depends only on the XOR of `c` and `b`. -/
theorem crc8Byte_eq (c b : Byte) : crc8Byte c b = crcShifts 8 (c ^^^ b) := rfl

theorem crc8Byte_xor (c c' b b' : Byte) : crc8Byte (c ^^^ c') (b ^^^ b') = crc8Byte c b ^^^ crc8Byte c' b' := by
  simp only [crc8Byte, ← crcShifts_xor]
  congr 1
  rw [BitVec.xor_assoc, BitVec.xor_assoc, ← BitVec.xor_assoc c', BitVec.xor_comm c', BitVec.xor_assoc b]

@[simp] theorem crc8Byte_self (c : Byte) : crc8Byte c c = 0#8 := by simp [crc8Byte]

/-- With `CRC_INIT` = `CRC_XOROUT` = 0 the checksum is the bare fold (R101). -/
theorem crc8_eq_foldl (s : List Byte) : crc8 s = s.foldl crc8Byte 0#8 := by
  simp [crc8, crcInit, crcXorOut]

@[simp] theorem crc8_nil : crc8 [] = 0#8 := by decide

/-- Feeding one more byte (R101, R111). -/
theorem crc8_concat (s : List Byte) (b : Byte) : crc8 (s ++ [b]) = crc8Byte (crc8 s) b := by
  simp [crc8_eq_foldl]

/-- Starting from `c` is starting from 0 and adding `c` moved past every byte. -/
theorem foldl_crc8Byte (c : Byte) (s : List Byte) :
    s.foldl crc8Byte c = crcShifts (8 * s.length) c ^^^ s.foldl crc8Byte 0#8 := by
  induction s generalizing c with
  | nil => simp [crcShifts]
  | cons b s ih =>
    rw [List.foldl_cons, List.foldl_cons, ih, ih (crc8Byte 0#8 b), ← BitVec.xor_assoc, List.length_cons,
      Nat.mul_succ, Nat.add_comm, crcShifts_add]
    have h : crc8Byte c b = crcShifts 8 c ^^^ crc8Byte 0#8 b := by
      rw [crc8Byte, crcShifts_xor, crc8Byte, BitVec.zero_xor]
    rw [h, crcShifts_xor]

/-- The address byte with the read bit set is ADDR with direction bit 1 (R131, R132). -/
theorem addrByte_or_one (a : BusAddr) : addrByte a ||| 0x01#8 = a ++ 1#1 := by revert a; decide +kernel

end Sys2Proof.Machine
end

