-- ==== Sys2Proof/Laws/Decode.lean ====
section
/-! SUPPORT. The fields of a command word and what the decoder answers on each OP value. -/

namespace Sys2Proof

/-- The bits of a command word, by field (R80). -/
theorem getLsbD_commandWord (d : Half) (s : Byte) (r o : BitVec 4) (k : Nat) :
    (commandWord d s r o).getLsbD k =
      if k < 4 then o.getLsbD k
      else if k < 8 then r.getLsbD (k - 4)
      else if k < 16 then s.getLsbD (k - 8)
      else d.getLsbD (k - 16) := by
  change BitVec.getLsbD (w := 16 + 8 + 4 + 4) (d ++ s ++ r ++ o) k = _
  simp only [BitVec.getLsbD_append, Nat.sub_sub]
  split_ifs <;> first | rfl | omega

/-- Two words with the same bits in every field are the same word. -/
theorem word_ext {v w : Word} (h : ∀ k, k < 32 → v.getLsbD k = w.getLsbD k) : v = w := BitVec.eq_of_getLsbD_eq h

@[simp] theorem opField_commandWord (d : Half) (s : Byte) (r o : BitVec 4) : opField (commandWord d s r o) = o :=
  BitVec.eq_of_getLsbD_eq fun k hk => by simp [opField, getLsbD_commandWord, hk]

@[simp] theorem rsvdField_commandWord (d : Half) (s : Byte) (r o : BitVec 4) :
    rsvdField (commandWord d s r o) = r :=
  BitVec.eq_of_getLsbD_eq fun k hk => by simp [rsvdField, getLsbD_commandWord, hk, show 4 + k < 8 by omega]

@[simp] theorem selField_commandWord (d : Half) (s : Byte) (r o : BitVec 4) :
    selField (commandWord d s r o) = s :=
  BitVec.eq_of_getLsbD_eq fun k hk => by
    simp [selField, getLsbD_commandWord, hk, show ¬8 + k < 4 by omega, show 8 + k < 16 by omega]

@[simp] theorem dataField_commandWord (d : Half) (s : Byte) (r o : BitVec 4) :
    dataField (commandWord d s r o) = d :=
  BitVec.eq_of_getLsbD_eq fun k hk => by
    simp [dataField, getLsbD_commandWord, hk, show ¬16 + k < 4 by omega, show ¬16 + k < 8 by omega]

/-- A word is its four fields (R80). -/
theorem commandWord_fields (w : Word) :
    commandWord (dataField w) (selField w) (rsvdField w) (opField w) = w :=
  word_ext fun k hk => by
    rw [getLsbD_commandWord]
    simp only [dataField, selField, rsvdField, opField, BitVec.getLsbD_extractLsb']
    split_ifs
    · simp [*]
    · simp [show k - 4 < 4 by omega, show 4 + (k - 4) = k by omega]
    · simp [show k - 8 < 8 by omega, show 8 + (k - 8) = k by omega]
    · simp [show k - 16 < 16 by omega, show 16 + (k - 16) = k by omega]

/-- Masking a command word masks its fields. -/
theorem commandWord_and (d d' : Half) (s s' : Byte) (r r' o o' : BitVec 4) :
    commandWord d s r o &&& commandWord d' s' r' o' = commandWord (d &&& d') (s &&& s') (r &&& r') (o &&& o') :=
  word_ext fun k _ => by
    rw [BitVec.getLsbD_and]
    simp only [getLsbD_commandWord]
    split_ifs <;> simp

/-- Command words agree exactly when their fields do. -/
theorem commandWord_inj {d d' : Half} {s s' : Byte} {r r' o o' : BitVec 4} :
    commandWord d s r o = commandWord d' s' r' o' ↔ d = d' ∧ s = s' ∧ r = r' ∧ o = o' := by
  refine ⟨fun h => ⟨?_, ?_, ?_, ?_⟩, ?_⟩
  · simpa using congrArg dataField h
  · simpa using congrArg selField h
  · simpa using congrArg rsvdField h
  · simpa using congrArg opField h
  · rintro ⟨rfl, rfl, rfl, rfl⟩
    rfl

theorem decode_rsvd {w : Word} (h : rsvdField w ≠ 0#4) : decode w = .illegal .reservedBits := if_pos h

/-- With RSVD = 0 the decoder goes by OP alone (R88). -/
theorem decode_op {w : Word} (h : rsvdField w = 0#4) :
    decode w = match (opField w).toNat with
      | 0 => .legal .nop
      | 1 => .legal .crcclr
      | 2 => .legal (.crcupd (selField w))
      | 3 => .legal (.crcchk (selField w))
      | 4 => .legal (.setaddr (selField w))
      | 5 => .legal (.rd16 (selField w))
      | 6 => .legal (.rd16s (selField w))
      | 7 => .legal (.wr16 (selField w) (dataField w))
      | 8 => .legal (.sendcmd (selField w))
      | _ => .illegal .reservedOp := if_neg (not_not.mpr h)

/-- A word that decodes to a command has RSVD = 0 and that command's OP (R85, R87). -/
theorem decode_legal {w : Word} {i : Instr} (h : decode w = .legal i) :
    rsvdField w = 0#4 ∧ opField w = opcodeOf i := by
  by_cases hr : rsvdField w = 0#4
  · refine ⟨hr, ?_⟩
    rw [decode_op hr] at h
    split at h <;> cases h <;> (apply BitVec.eq_of_toNat_eq; simpa [opcodeOf] using ‹_ = _›)
  · simp [decode_rsvd hr] at h

/-- The bits of a word assembled from four lanes (R54). -/
theorem getLsbD_lanes (b3 b2 b1 b0 : Byte) (k : Nat) :
    BitVec.getLsbD (b3 ++ b2 ++ b1 ++ b0 : Word) k =
      if k < 8 then b0.getLsbD k
      else if k < 16 then b1.getLsbD (k - 8)
      else if k < 24 then b2.getLsbD (k - 16)
      else b3.getLsbD (k - 24) := by
  simp only [BitVec.getLsbD_append, Nat.sub_sub]
  split_ifs <;> first | rfl | omega

/-- Four lanes, lane 0 first, are the word again (R54). -/
theorem word_of_lanes (w : Word) : (lane w 3 ++ lane w 2 ++ lane w 1 ++ lane w 0 : Word) = w :=
  word_ext fun k hk => by
    rw [getLsbD_lanes]
    simp only [lane, BitVec.getLsbD_extractLsb']
    split_ifs
    · simp [*]
    · simp [show k - 8 < 8 by omega, show 8 + (k - 8) = k by omega]
    · simp [show k - 16 < 8 by omega, show 16 + (k - 16) = k by omega]
    · simp [show k - 24 < 8 by omega, show 24 + (k - 24) = k by omega]

theorem decodeBytes_lanes (w : Word) : decodeBytes (lanes w) = decode w := by
  rw [lanes, decodeBytes, word_of_lanes]

end Sys2Proof
end

