-- ==== Sys2Proof/Laws/State.lean ====
section
/-! SUPPORT. For each named update of State and each field: what the field holds afterwards. Each is true by `rfl`. -/

namespace Sys2Proof.Machine

variable (s : State)

/-! ### `beginCommand` -/

@[simp] theorem State.beginCommand_params : s.beginCommand.params = s.params := rfl
@[simp] theorem State.beginCommand_cmd : s.beginCommand.cmd = s.cmd := rfl
@[simp] theorem State.beginCommand_done : s.beginCommand.done = false := rfl
@[simp] theorem State.beginCommand_valid : s.beginCommand.valid = s.valid := rfl
@[simp] theorem State.beginCommand_ovr : s.beginCommand.ovr = s.ovr := rfl
@[simp] theorem State.beginCommand_err : s.beginCommand.err = 0#4 := rfl
@[simp] theorem State.beginCommand_addr : s.beginCommand.addr = s.addr := rfl
@[simp] theorem State.beginCommand_crc : s.beginCommand.crc = s.crc := rfl
@[simp] theorem State.beginCommand_result : s.beginCommand.result = s.result := rfl
@[simp] theorem State.beginCommand_phase : s.beginCommand.phase = s.phase := rfl
@[simp] theorem State.beginCommand_pending : s.beginCommand.pending = s.pending := rfl
@[simp] theorem State.beginCommand_rst : s.beginCommand.rst = s.rst := rfl
@[simp] theorem State.beginCommand_resp : s.beginCommand.resp = s.resp := rfl
@[simp] theorem State.beginCommand_inputs : s.beginCommand.inputs = s.inputs := rfl
@[simp] theorem State.beginCommand_dropped : s.beginCommand.dropped = s.dropped := rfl

/-! ### `complete` -/

@[simp] theorem State.complete_params (e : ErrCode) : (s.complete e).params = s.params := rfl
@[simp] theorem State.complete_cmd (e : ErrCode) : (s.complete e).cmd = s.cmd := rfl
@[simp] theorem State.complete_done (e : ErrCode) : (s.complete e).done = true := rfl
@[simp] theorem State.complete_valid (e : ErrCode) : (s.complete e).valid = s.valid := rfl
@[simp] theorem State.complete_ovr (e : ErrCode) : (s.complete e).ovr = s.ovr := rfl
@[simp] theorem State.complete_err (e : ErrCode) : (s.complete e).err = e.code := rfl
@[simp] theorem State.complete_addr (e : ErrCode) : (s.complete e).addr = s.addr := rfl
@[simp] theorem State.complete_crc (e : ErrCode) : (s.complete e).crc = s.crc := rfl
@[simp] theorem State.complete_result (e : ErrCode) : (s.complete e).result = s.result := rfl
@[simp] theorem State.complete_phase (e : ErrCode) : (s.complete e).phase = .idle := rfl
@[simp] theorem State.complete_pending (e : ErrCode) : (s.complete e).pending = none := rfl
@[simp] theorem State.complete_rst (e : ErrCode) : (s.complete e).rst = s.rst := rfl
@[simp] theorem State.complete_resp (e : ErrCode) : (s.complete e).resp = s.resp := rfl
@[simp] theorem State.complete_inputs (e : ErrCode) : (s.complete e).inputs = s.inputs := rfl
@[simp] theorem State.complete_dropped (e : ErrCode) : (s.complete e).dropped = s.dropped := rfl

/-! ### `issue` -/

@[simp] theorem State.issue_params (p : Pending) : (s.issue p).params = s.params := rfl
@[simp] theorem State.issue_cmd (p : Pending) : (s.issue p).cmd = s.cmd := rfl
@[simp] theorem State.issue_done (p : Pending) : (s.issue p).done = s.done := rfl
@[simp] theorem State.issue_valid (p : Pending) : (s.issue p).valid = s.valid := rfl
@[simp] theorem State.issue_ovr (p : Pending) : (s.issue p).ovr = s.ovr := rfl
@[simp] theorem State.issue_err (p : Pending) : (s.issue p).err = s.err := rfl
@[simp] theorem State.issue_addr (p : Pending) : (s.issue p).addr = s.addr := rfl
@[simp] theorem State.issue_crc (p : Pending) : (s.issue p).crc = s.crc := rfl
@[simp] theorem State.issue_result (p : Pending) : (s.issue p).result = s.result := rfl
@[simp] theorem State.issue_phase (p : Pending) : (s.issue p).phase = .waitBus := rfl
@[simp] theorem State.issue_pending (p : Pending) : (s.issue p).pending = some p := rfl
@[simp] theorem State.issue_rst (p : Pending) : (s.issue p).rst = s.rst := rfl
@[simp] theorem State.issue_resp (p : Pending) : (s.issue p).resp = s.resp := rfl
@[simp] theorem State.issue_inputs (p : Pending) : (s.issue p).inputs = s.inputs := rfl
@[simp] theorem State.issue_dropped (p : Pending) : (s.issue p).dropped = s.dropped := rfl

/-! ### `setCmd` -/

@[simp] theorem State.setCmd_params (v : Word) : (s.setCmd v).params = s.params := rfl
@[simp] theorem State.setCmd_cmd (v : Word) : (s.setCmd v).cmd = v := rfl
@[simp] theorem State.setCmd_done (v : Word) : (s.setCmd v).done = s.done := rfl
@[simp] theorem State.setCmd_valid (v : Word) : (s.setCmd v).valid = s.valid := rfl
@[simp] theorem State.setCmd_ovr (v : Word) : (s.setCmd v).ovr = s.ovr := rfl
@[simp] theorem State.setCmd_err (v : Word) : (s.setCmd v).err = s.err := rfl
@[simp] theorem State.setCmd_addr (v : Word) : (s.setCmd v).addr = s.addr := rfl
@[simp] theorem State.setCmd_crc (v : Word) : (s.setCmd v).crc = s.crc := rfl
@[simp] theorem State.setCmd_result (v : Word) : (s.setCmd v).result = s.result := rfl
@[simp] theorem State.setCmd_phase (v : Word) : (s.setCmd v).phase = s.phase := rfl
@[simp] theorem State.setCmd_pending (v : Word) : (s.setCmd v).pending = s.pending := rfl
@[simp] theorem State.setCmd_rst (v : Word) : (s.setCmd v).rst = s.rst := rfl
@[simp] theorem State.setCmd_resp (v : Word) : (s.setCmd v).resp = s.resp := rfl
@[simp] theorem State.setCmd_inputs (v : Word) : (s.setCmd v).inputs = s.inputs := rfl
@[simp] theorem State.setCmd_dropped (v : Word) : (s.setCmd v).dropped = s.dropped := rfl

/-! ### `setOvr` -/

@[simp] theorem State.setOvr_params : s.setOvr.params = s.params := rfl
@[simp] theorem State.setOvr_cmd : s.setOvr.cmd = s.cmd := rfl
@[simp] theorem State.setOvr_done : s.setOvr.done = s.done := rfl
@[simp] theorem State.setOvr_valid : s.setOvr.valid = s.valid := rfl
@[simp] theorem State.setOvr_ovr : s.setOvr.ovr = true := rfl
@[simp] theorem State.setOvr_err : s.setOvr.err = s.err := rfl
@[simp] theorem State.setOvr_addr : s.setOvr.addr = s.addr := rfl
@[simp] theorem State.setOvr_crc : s.setOvr.crc = s.crc := rfl
@[simp] theorem State.setOvr_result : s.setOvr.result = s.result := rfl
@[simp] theorem State.setOvr_phase : s.setOvr.phase = s.phase := rfl
@[simp] theorem State.setOvr_pending : s.setOvr.pending = s.pending := rfl
@[simp] theorem State.setOvr_rst : s.setOvr.rst = s.rst := rfl
@[simp] theorem State.setOvr_resp : s.setOvr.resp = s.resp := rfl
@[simp] theorem State.setOvr_inputs : s.setOvr.inputs = s.inputs := rfl
@[simp] theorem State.setOvr_dropped : s.setOvr.dropped = s.dropped := rfl

/-! ### `setAddr` -/

@[simp] theorem State.setAddr_params (a : BusAddr) : (s.setAddr a).params = s.params := rfl
@[simp] theorem State.setAddr_cmd (a : BusAddr) : (s.setAddr a).cmd = s.cmd := rfl
@[simp] theorem State.setAddr_done (a : BusAddr) : (s.setAddr a).done = s.done := rfl
@[simp] theorem State.setAddr_valid (a : BusAddr) : (s.setAddr a).valid = s.valid := rfl
@[simp] theorem State.setAddr_ovr (a : BusAddr) : (s.setAddr a).ovr = s.ovr := rfl
@[simp] theorem State.setAddr_err (a : BusAddr) : (s.setAddr a).err = s.err := rfl
@[simp] theorem State.setAddr_addr (a : BusAddr) : (s.setAddr a).addr = a := rfl
@[simp] theorem State.setAddr_crc (a : BusAddr) : (s.setAddr a).crc = s.crc := rfl
@[simp] theorem State.setAddr_result (a : BusAddr) : (s.setAddr a).result = s.result := rfl
@[simp] theorem State.setAddr_phase (a : BusAddr) : (s.setAddr a).phase = s.phase := rfl
@[simp] theorem State.setAddr_pending (a : BusAddr) : (s.setAddr a).pending = s.pending := rfl
@[simp] theorem State.setAddr_rst (a : BusAddr) : (s.setAddr a).rst = s.rst := rfl
@[simp] theorem State.setAddr_resp (a : BusAddr) : (s.setAddr a).resp = s.resp := rfl
@[simp] theorem State.setAddr_inputs (a : BusAddr) : (s.setAddr a).inputs = s.inputs := rfl
@[simp] theorem State.setAddr_dropped (a : BusAddr) : (s.setAddr a).dropped = s.dropped := rfl

/-! ### `setCrc` -/

@[simp] theorem State.setCrc_params (c : Byte) : (s.setCrc c).params = s.params := rfl
@[simp] theorem State.setCrc_cmd (c : Byte) : (s.setCrc c).cmd = s.cmd := rfl
@[simp] theorem State.setCrc_done (c : Byte) : (s.setCrc c).done = s.done := rfl
@[simp] theorem State.setCrc_valid (c : Byte) : (s.setCrc c).valid = s.valid := rfl
@[simp] theorem State.setCrc_ovr (c : Byte) : (s.setCrc c).ovr = s.ovr := rfl
@[simp] theorem State.setCrc_err (c : Byte) : (s.setCrc c).err = s.err := rfl
@[simp] theorem State.setCrc_addr (c : Byte) : (s.setCrc c).addr = s.addr := rfl
@[simp] theorem State.setCrc_crc (c : Byte) : (s.setCrc c).crc = c := rfl
@[simp] theorem State.setCrc_result (c : Byte) : (s.setCrc c).result = s.result := rfl
@[simp] theorem State.setCrc_phase (c : Byte) : (s.setCrc c).phase = s.phase := rfl
@[simp] theorem State.setCrc_pending (c : Byte) : (s.setCrc c).pending = s.pending := rfl
@[simp] theorem State.setCrc_rst (c : Byte) : (s.setCrc c).rst = s.rst := rfl
@[simp] theorem State.setCrc_resp (c : Byte) : (s.setCrc c).resp = s.resp := rfl
@[simp] theorem State.setCrc_inputs (c : Byte) : (s.setCrc c).inputs = s.inputs := rfl
@[simp] theorem State.setCrc_dropped (c : Byte) : (s.setCrc c).dropped = s.dropped := rfl

/-! ### `clearResult` -/

@[simp] theorem State.clearResult_params : s.clearResult.params = s.params := rfl
@[simp] theorem State.clearResult_cmd : s.clearResult.cmd = s.cmd := rfl
@[simp] theorem State.clearResult_done : s.clearResult.done = s.done := rfl
@[simp] theorem State.clearResult_valid : s.clearResult.valid = false := rfl
@[simp] theorem State.clearResult_ovr : s.clearResult.ovr = s.ovr := rfl
@[simp] theorem State.clearResult_err : s.clearResult.err = s.err := rfl
@[simp] theorem State.clearResult_addr : s.clearResult.addr = s.addr := rfl
@[simp] theorem State.clearResult_crc : s.clearResult.crc = s.crc := rfl
@[simp] theorem State.clearResult_result : s.clearResult.result = 0x00000000#32 := rfl
@[simp] theorem State.clearResult_phase : s.clearResult.phase = s.phase := rfl
@[simp] theorem State.clearResult_pending : s.clearResult.pending = s.pending := rfl
@[simp] theorem State.clearResult_rst : s.clearResult.rst = s.rst := rfl
@[simp] theorem State.clearResult_resp : s.clearResult.resp = s.resp := rfl
@[simp] theorem State.clearResult_inputs : s.clearResult.inputs = s.inputs := rfl
@[simp] theorem State.clearResult_dropped : s.clearResult.dropped = s.dropped := rfl

/-! ### `deliver` -/

@[simp] theorem State.deliver_params (w : Word) : (s.deliver w).params = s.params := rfl
@[simp] theorem State.deliver_cmd (w : Word) : (s.deliver w).cmd = s.cmd := rfl
@[simp] theorem State.deliver_done (w : Word) : (s.deliver w).done = s.done := rfl
@[simp] theorem State.deliver_valid (w : Word) : (s.deliver w).valid = true := rfl
@[simp] theorem State.deliver_ovr (w : Word) : (s.deliver w).ovr = s.ovr := rfl
@[simp] theorem State.deliver_err (w : Word) : (s.deliver w).err = s.err := rfl
@[simp] theorem State.deliver_addr (w : Word) : (s.deliver w).addr = s.addr := rfl
@[simp] theorem State.deliver_crc (w : Word) : (s.deliver w).crc = s.crc := rfl
@[simp] theorem State.deliver_result (w : Word) : (s.deliver w).result = w := rfl
@[simp] theorem State.deliver_phase (w : Word) : (s.deliver w).phase = s.phase := rfl
@[simp] theorem State.deliver_pending (w : Word) : (s.deliver w).pending = s.pending := rfl
@[simp] theorem State.deliver_rst (w : Word) : (s.deliver w).rst = s.rst := rfl
@[simp] theorem State.deliver_resp (w : Word) : (s.deliver w).resp = s.resp := rfl
@[simp] theorem State.deliver_inputs (w : Word) : (s.deliver w).inputs = s.inputs := rfl
@[simp] theorem State.deliver_dropped (w : Word) : (s.deliver w).dropped = s.dropped := rfl

/-! ### `respond` -/

@[simp] theorem State.respond_params (r : HostResponse) : (s.respond r).params = s.params := rfl
@[simp] theorem State.respond_cmd (r : HostResponse) : (s.respond r).cmd = s.cmd := rfl
@[simp] theorem State.respond_done (r : HostResponse) : (s.respond r).done = s.done := rfl
@[simp] theorem State.respond_valid (r : HostResponse) : (s.respond r).valid = s.valid := rfl
@[simp] theorem State.respond_ovr (r : HostResponse) : (s.respond r).ovr = s.ovr := rfl
@[simp] theorem State.respond_err (r : HostResponse) : (s.respond r).err = s.err := rfl
@[simp] theorem State.respond_addr (r : HostResponse) : (s.respond r).addr = s.addr := rfl
@[simp] theorem State.respond_crc (r : HostResponse) : (s.respond r).crc = s.crc := rfl
@[simp] theorem State.respond_result (r : HostResponse) : (s.respond r).result = s.result := rfl
@[simp] theorem State.respond_phase (r : HostResponse) : (s.respond r).phase = s.phase := rfl
@[simp] theorem State.respond_pending (r : HostResponse) : (s.respond r).pending = s.pending := rfl
@[simp] theorem State.respond_rst (r : HostResponse) : (s.respond r).rst = s.rst := rfl
@[simp] theorem State.respond_resp (r : HostResponse) : (s.respond r).resp = r := rfl
@[simp] theorem State.respond_inputs (r : HostResponse) : (s.respond r).inputs = s.inputs := rfl
@[simp] theorem State.respond_dropped (r : HostResponse) : (s.respond r).dropped = s.dropped := rfl

/-! ### `setInputs` -/

@[simp] theorem State.setInputs_params (l : List Event) : (s.setInputs l).params = s.params := rfl
@[simp] theorem State.setInputs_cmd (l : List Event) : (s.setInputs l).cmd = s.cmd := rfl
@[simp] theorem State.setInputs_done (l : List Event) : (s.setInputs l).done = s.done := rfl
@[simp] theorem State.setInputs_valid (l : List Event) : (s.setInputs l).valid = s.valid := rfl
@[simp] theorem State.setInputs_ovr (l : List Event) : (s.setInputs l).ovr = s.ovr := rfl
@[simp] theorem State.setInputs_err (l : List Event) : (s.setInputs l).err = s.err := rfl
@[simp] theorem State.setInputs_addr (l : List Event) : (s.setInputs l).addr = s.addr := rfl
@[simp] theorem State.setInputs_crc (l : List Event) : (s.setInputs l).crc = s.crc := rfl
@[simp] theorem State.setInputs_result (l : List Event) : (s.setInputs l).result = s.result := rfl
@[simp] theorem State.setInputs_phase (l : List Event) : (s.setInputs l).phase = s.phase := rfl
@[simp] theorem State.setInputs_pending (l : List Event) : (s.setInputs l).pending = s.pending := rfl
@[simp] theorem State.setInputs_rst (l : List Event) : (s.setInputs l).rst = s.rst := rfl
@[simp] theorem State.setInputs_resp (l : List Event) : (s.setInputs l).resp = s.resp := rfl
@[simp] theorem State.setInputs_inputs (l : List Event) : (s.setInputs l).inputs = l := rfl
@[simp] theorem State.setInputs_dropped (l : List Event) : (s.setInputs l).dropped = s.dropped := rfl

/-! ### `clearStatus` -/

@[simp] theorem State.clearStatus_params (v : Word) : (s.clearStatus v).params = s.params := rfl
@[simp] theorem State.clearStatus_cmd (v : Word) : (s.clearStatus v).cmd = s.cmd := rfl
@[simp] theorem State.clearStatus_done (v : Word) : (s.clearStatus v).done = (s.done && !v.getLsbD 1) := rfl
@[simp] theorem State.clearStatus_valid (v : Word) : (s.clearStatus v).valid = s.valid := rfl
@[simp] theorem State.clearStatus_ovr (v : Word) : (s.clearStatus v).ovr = (s.ovr && !v.getLsbD 3) := rfl
@[simp] theorem State.clearStatus_err (v : Word) : (s.clearStatus v).err = s.err := rfl
@[simp] theorem State.clearStatus_addr (v : Word) : (s.clearStatus v).addr = s.addr := rfl
@[simp] theorem State.clearStatus_crc (v : Word) : (s.clearStatus v).crc = s.crc := rfl
@[simp] theorem State.clearStatus_result (v : Word) : (s.clearStatus v).result = s.result := rfl
@[simp] theorem State.clearStatus_phase (v : Word) : (s.clearStatus v).phase = s.phase := rfl
@[simp] theorem State.clearStatus_pending (v : Word) : (s.clearStatus v).pending = s.pending := rfl
@[simp] theorem State.clearStatus_rst (v : Word) : (s.clearStatus v).rst = s.rst := rfl
@[simp] theorem State.clearStatus_resp (v : Word) : (s.clearStatus v).resp = s.resp := rfl
@[simp] theorem State.clearStatus_inputs (v : Word) : (s.clearStatus v).inputs = s.inputs := rfl
@[simp] theorem State.clearStatus_dropped (v : Word) : (s.clearStatus v).dropped = s.dropped := rfl

/-! ### `hardReset` -/

@[simp] theorem State.hardReset_params (level : Bool) : (s.hardReset level).params = s.params := rfl
@[simp] theorem State.hardReset_cmd (level : Bool) : (s.hardReset level).cmd = 0x00000000#32 := rfl
@[simp] theorem State.hardReset_done (level : Bool) : (s.hardReset level).done = false := rfl
@[simp] theorem State.hardReset_valid (level : Bool) : (s.hardReset level).valid = false := rfl
@[simp] theorem State.hardReset_ovr (level : Bool) : (s.hardReset level).ovr = false := rfl
@[simp] theorem State.hardReset_err (level : Bool) : (s.hardReset level).err = 0x0#4 := rfl
@[simp] theorem State.hardReset_addr (level : Bool) : (s.hardReset level).addr = s.params.defaultAddr := rfl
@[simp] theorem State.hardReset_crc (level : Bool) : (s.hardReset level).crc = 0x00#8 := rfl
@[simp] theorem State.hardReset_result (level : Bool) : (s.hardReset level).result = 0x00000000#32 := rfl
@[simp] theorem State.hardReset_phase (level : Bool) : (s.hardReset level).phase = .idle := rfl
@[simp] theorem State.hardReset_pending (level : Bool) : (s.hardReset level).pending = none := rfl
@[simp] theorem State.hardReset_rst (level : Bool) : (s.hardReset level).rst = level := rfl
@[simp] theorem State.hardReset_resp (level : Bool) : (s.hardReset level).resp = .silent := rfl
@[simp] theorem State.hardReset_inputs (level : Bool) : (s.hardReset level).inputs = s.inputs := rfl
@[simp] theorem State.hardReset_dropped (level : Bool) : (s.hardReset level).dropped = s.dropped + (if s.pending.isSome then 1 else 0) := rfl

/-! ### The reset state -/

@[simp] theorem State.resetWith_params (p : Params) : (State.resetWith p).params = p := rfl
@[simp] theorem State.resetWith_cmd (p : Params) : (State.resetWith p).cmd = 0x00000000#32 := rfl
@[simp] theorem State.resetWith_done (p : Params) : (State.resetWith p).done = false := rfl
@[simp] theorem State.resetWith_valid (p : Params) : (State.resetWith p).valid = false := rfl
@[simp] theorem State.resetWith_ovr (p : Params) : (State.resetWith p).ovr = false := rfl
@[simp] theorem State.resetWith_err (p : Params) : (State.resetWith p).err = 0x0#4 := rfl
@[simp] theorem State.resetWith_addr (p : Params) : (State.resetWith p).addr = p.defaultAddr := rfl
@[simp] theorem State.resetWith_crc (p : Params) : (State.resetWith p).crc = 0x00#8 := rfl
@[simp] theorem State.resetWith_result (p : Params) : (State.resetWith p).result = 0x00000000#32 := rfl
@[simp] theorem State.resetWith_phase (p : Params) : (State.resetWith p).phase = .idle := rfl
@[simp] theorem State.resetWith_pending (p : Params) : (State.resetWith p).pending = none := rfl
@[simp] theorem State.resetWith_rst (p : Params) : (State.resetWith p).rst = false := rfl
@[simp] theorem State.resetWith_resp (p : Params) : (State.resetWith p).resp = .silent := rfl
@[simp] theorem State.resetWith_inputs (p : Params) : (State.resetWith p).inputs = [] := rfl
@[simp] theorem State.resetWith_dropped (p : Params) : (State.resetWith p).dropped = 0 := rfl

/-! ### BUSY (R25) -/

theorem State.busy_iff : s.busy = true ↔ s.phase = .waitBus := by simp [State.busy]

theorem State.not_busy_iff : s.busy = false ↔ s.phase = .idle := by
  cases h : s.phase <;> simp [State.busy, h]

/-! ### The STATUS word (R24) -/

/-- The bits of the STATUS word, by field. -/
theorem State.getLsbD_statusWord (k : Nat) :
    s.statusWord.getLsbD k =
      match k with
      | 0 => s.busy
      | 1 => s.done
      | 2 => s.valid
      | 3 => s.ovr
      | n + 4 => s.err.getLsbD n := by
  unfold State.statusWord
  change BitVec.getLsbD (w := 24 + 4 + 1 + 1 + 1 + 1) (0#24 ++ s.err ++ BitVec.ofBool s.ovr ++
    BitVec.ofBool s.valid ++ BitVec.ofBool s.done ++ BitVec.ofBool s.busy) k = _
  simp only [BitVec.getLsbD_append]
  rcases k with _ | _ | _ | _ | k
  · simp
  · simp
  · simp
  · simp
  · by_cases h : k < 4
    · simp [h]
    · simp [h, BitVec.getLsbD_of_ge s.err k (by omega)]

/-! ### The outcome codes (R170) -/

@[simp] theorem ErrCode.code_ok : ErrCode.ok.code = 0#4 := rfl
@[simp] theorem ErrCode.code_transport : ErrCode.transport.code = 1#4 := rfl
@[simp] theorem ErrCode.code_checksum : ErrCode.checksum.code = 2#4 := rfl
@[simp] theorem ErrCode.code_invalidInput : ErrCode.invalidInput.code = 3#4 := rfl
@[simp] theorem ErrCode.code_illegalCmd : ErrCode.illegalCmd.code = 4#4 := rfl

theorem ErrCode.code_le (e : ErrCode) : e.code.toNat ≤ 4 := by cases e <;> decide

end Sys2Proof.Machine
end

