-- ==== Sys2Proof/Laws/Step.lean ====
section
/-! SUPPORT. Once for each shared operation, and for the step, everything it can do when it answers a next state. -/

namespace Sys2Proof.Machine

/-! ### Commands -/

/-- Every meaning answers a next state. -/
theorem exec_answers_next (i : Instr) (s : State) : ∃ t, exec i s = .next t := by
  cases i <;> exact ⟨_, rfl⟩

/-- What no command touches: the parameters, CMD (the accept wrote it), OVR (R28), and everything that is not the
block's register state. -/
theorem exec_keeps {i : Instr} {s t : State} (h : exec i s = .next t) :
    t.params = s.params ∧ t.cmd = s.cmd ∧ t.ovr = s.ovr ∧ t.rst = s.rst ∧ t.resp = s.resp ∧
      t.inputs = s.inputs ∧ t.dropped = s.dropped := by
  cases i with
  | setaddr a =>
    simp only [exec, execSetaddr] at h
    cases h
    split <;> exact ⟨rfl, rfl, rfl, rfl, rfl, rfl, rfl⟩
  | _ => cases h; exact ⟨rfl, rfl, rfl, rfl, rfl, rfl, rfl⟩

/-- What an accept can do: run the command the word spells, or record ILLEGAL_CMD. -/
theorem acceptCommand_cases {v : Word} {s t : State} (h : acceptCommand v s = .next t) :
    (∃ i, decode v = .legal i ∧ exec i (s.setCmd v) = .next t) ∨
      (∃ why, decode v = .illegal why ∧ t = (s.setCmd v).beginCommand.complete .illegalCmd) := by
  unfold acceptCommand at h
  split at h
  · exact .inl ⟨_, ‹_›, h⟩
  · cases h
    exact .inr ⟨_, ‹_›, rfl⟩

/-- What no accept touches, and the word CMD takes (R23). -/
theorem acceptCommand_keeps {v : Word} {s t : State} (h : acceptCommand v s = .next t) :
    t.params = s.params ∧ t.cmd = v ∧ t.ovr = s.ovr ∧ t.rst = s.rst ∧ t.resp = s.resp ∧
      t.inputs = s.inputs ∧ t.dropped = s.dropped := by
  rcases acceptCommand_cases h with ⟨i, -, e⟩ | ⟨why, -, rfl⟩
  · exact exec_keeps e
  · exact ⟨rfl, rfl, rfl, rfl, rfl, rfl, rfl⟩

theorem acceptCommand_legal {v : Word} {i : Instr} (h : decode v = .legal i) (s : State) :
    acceptCommand v s = exec i (s.setCmd v) := by rw [acceptCommand, h]

theorem acceptCommand_illegal {v : Word} {why : Illegal} (h : decode v = .illegal why) (s : State) :
    acceptCommand v s = illegalCommand (s.setCmd v) := by rw [acceptCommand, h]

theorem acceptCommand_answers_next (v : Word) (s : State) : ∃ t, acceptCommand v s = .next t := by
  cases h : decode v with
  | legal i => rw [acceptCommand_legal h]; exact exec_answers_next i _
  | illegal why => exact ⟨_, acceptCommand_illegal h s⟩

/-! ### Finish steps -/

/-- What a read's finish can do: TRANSPORT, CHECKSUM with the value discarded, or OK (R141). -/
theorem finishRead_cases (signed : Bool) (a : BusAddr) (sel : Byte) (ans : Answer) (s : State) :
    finishRead signed a sel ans s = s.complete .transport ∨
      ∃ lo hi p, ans = .ok [lo, hi, p] ∧
        ((crc8 (readCoverage s.params a sel lo hi) ≠ p ∧ finishRead signed a sel ans s =
            (s.setCrc (crc8 (readCoverage s.params a sel lo hi))).complete .checksum) ∨
          (crc8 (readCoverage s.params a sel lo hi) = p ∧ finishRead signed a sel ans s =
            ((s.setCrc p).deliver (if signed then sext32 (ofBytes lo hi) else zext32 (ofBytes lo hi))).complete .ok)) := by
  unfold finishRead
  split
  · rename_i lo hi p
    refine .inr ⟨lo, hi, p, rfl, ?_⟩
    by_cases h : crc8 (readCoverage s.params a sel lo hi) = p
    · exact .inr ⟨h, by simp [h]⟩
    · exact .inl ⟨h, by simp [h]⟩
  · exact .inl rfl

/-- What a write's or a command's finish can do: OK on the empty answer, else TRANSPORT (R150, R155). -/
theorem finishWrite_cases (ans : Answer) (s : State) :
    (ans = .ok [] ∧ finishWrite ans s = s.complete .ok) ∨
      (ans ≠ .ok [] ∧ finishWrite ans s = s.complete .transport) := by
  unfold finishWrite
  split
  · exact .inl ⟨rfl, rfl⟩
  · exact .inr ⟨‹_›, rfl⟩

/-- Every finish is a completion of the state as it was, but for CRC, RESULT and VALID (R141, R172). -/
theorem finishCommand_completes (p : Pending) (ans : Answer) (s : State) :
    ∃ e c r v, finishCommand p ans s = ({ s with crc := c, result := r, valid := v } : State).complete e := by
  have read (b a sel) : ∃ e c r v, finishRead b a sel ans s =
      ({ s with crc := c, result := r, valid := v } : State).complete e := by
    rcases finishRead_cases b a sel ans s with h | ⟨lo, hi, q, -, ⟨-, h⟩ | ⟨-, h⟩⟩
    · exact ⟨.transport, s.crc, s.result, s.valid, h⟩
    · exact ⟨.checksum, _, s.result, s.valid, h⟩
    · exact ⟨.ok, q, _, true, h⟩
  have write : ∃ e c r v, finishWrite ans s =
      ({ s with crc := c, result := r, valid := v } : State).complete e := by
    rcases finishWrite_cases ans s with ⟨-, h⟩ | ⟨-, h⟩
    · exact ⟨.ok, s.crc, s.result, s.valid, h⟩
    · exact ⟨.transport, s.crc, s.result, s.valid, h⟩
  unfold finishCommand
  split
  · exact read _ _ _
  · exact read _ _ _
  · exact write
  · exact write

/-- What no finish touches, and what it leaves of the command (R172). -/
theorem finishCommand_keeps (p : Pending) (ans : Answer) (s : State) :
    let t := finishCommand p ans s
    (t.phase = .idle ∧ t.pending = none ∧ t.done = true) ∧
      t.params = s.params ∧ t.cmd = s.cmd ∧ t.ovr = s.ovr ∧ t.addr = s.addr ∧ t.rst = s.rst ∧ t.resp = s.resp ∧
      t.inputs = s.inputs ∧ t.dropped = s.dropped := by
  obtain ⟨e, c, r, v, h⟩ := finishCommand_completes p ans s
  rw [h]
  exact ⟨⟨rfl, rfl, rfl⟩, rfl, rfl, rfl, rfl, rfl, rfl, rfl, rfl⟩

/-- TRANSPORT's answer is consumed only by an outstanding request (R62, R66). -/
theorem blockAnswer_cases {ans : Answer} {s t : State} (h : blockAnswer ans s = .next t) :
    ∃ p, s.phase = .waitBus ∧ s.pending = some p ∧ t = finishCommand p ans s := by
  unfold blockAnswer at h
  split at h
  · cases h
    exact ⟨_, ‹_›, ‹_›, rfl⟩
  · cases h

theorem lateAnswer_cases {s t : State} (h : lateAnswer s = .next t) :
    ∃ k, s.dropped = k + 1 ∧ t = { s with dropped := k } := by
  unfold lateAnswer at h
  split at h
  · cases h
  · cases h
    exact ⟨_, ‹_›, rfl⟩

theorem driveReset_cases (level : Bool) (s : State) :
    ((level = true ∨ s.rst = true) ∧ s.driveReset level = s.hardReset level) ∨
      (level = false ∧ s.rst = false ∧ s.driveReset level = s) := by
  unfold State.driveReset
  cases level <;> cases h : s.rst <;> simp

/-! ### The HOST port -/

/-- An access that reaches a register: in the window, out of reset, 32 bits wide and aligned (R50, R55, R200). -/
def Admitted (a : HostAccess) (offset : Nat) (s : State) : Prop :=
  windowOffset s.params a.addr = some offset ∧ s.rst = false ∧ a.size = 4 ∧ offset % 4 = 0

theorem hostAccess_admitted {a : HostAccess} {offset : Nat} {s : State} (h : Admitted a offset s) :
    hostAccess a s = match a.op with
      | .read => .next (s.respond (.data (readReg (windowReg offset) s)))
      | .write v => writeReg (windowReg offset) v (s.respond .written) := by
  obtain ⟨hw, hr, hs, ho⟩ := h
  simp only [hostAccess, hw, hr, hs, ho]
  rfl

/-- What a HOST access can do. -/
theorem hostAccess_cases {a : HostAccess} {s t : State} (h : hostAccess a s = .next t) :
    (windowOffset s.params a.addr = none ∧ t = s.respond .silent) ∨
      (∃ offset, windowOffset s.params a.addr = some offset ∧ (s.rst = true ∨ a.size ≠ 4 ∨ offset % 4 ≠ 0) ∧
        t = s.respond .accessError) ∨
      (∃ offset, Admitted a offset s ∧
        ((a.op = .read ∧ t = s.respond (.data (readReg (windowReg offset) s))) ∨
          ∃ v, a.op = .write v ∧ writeReg (windowReg offset) v (s.respond .written) = .next t)) := by
  cases hw : windowOffset s.params a.addr with
  | none =>
    simp only [hostAccess, hw] at h
    cases h
    exact .inl ⟨rfl, rfl⟩
  | some offset =>
    refine .inr ?_
    by_cases bad : s.rst = true ∨ a.size ≠ 4 ∨ offset % 4 ≠ 0
    · refine .inl ⟨offset, rfl, bad, ?_⟩
      have : (s.rst || a.size != 4 || offset % 4 != 0) = true := by simpa [or_assoc] using bad
      simp only [hostAccess, hw, this, if_true] at h
      cases h
      rfl
    · have ok : Admitted a offset s := by
        simp only [not_or, not_not, Bool.not_eq_true] at bad
        exact ⟨hw, bad.1, bad.2.1, bad.2.2⟩
      refine .inr ⟨offset, ok, ?_⟩
      rw [hostAccess_admitted ok] at h
      cases ho : a.op with
      | read => simp only [ho] at h; cases h; exact .inl ⟨rfl, rfl⟩
      | write v => simp only [ho] at h; exact .inr ⟨v, rfl, h⟩

/-- What a write to a register can do: accept or drop a command, clear STATUS bits, or nothing (R56). -/
theorem writeReg_cases {r : WindowReg} {v : Word} {s t : State} (h : writeReg r v s = .next t) :
    (r = .cmd ∧ s.phase = .idle ∧ acceptCommand v s = .next t) ∨
      (r = .cmd ∧ s.phase = .waitBus ∧ t = s.setOvr) ∨
      (r = .status ∧ t = s.clearStatus v) ∨
      (r ≠ .cmd ∧ r ≠ .status ∧ t = s) := by
  cases r with
  | cmd =>
    simp only [writeReg, writeCmd] at h
    cases hp : s.phase with
    | idle => simp [State.busy, hp] at h; exact .inl ⟨rfl, rfl, h⟩
    | waitBus => simp [State.busy, hp] at h; exact .inr (.inl ⟨rfl, rfl, h.symm⟩)
  | status => cases h; exact .inr (.inr (.inl ⟨rfl, rfl⟩))
  | addr => cases h; exact .inr (.inr (.inr ⟨by simp, by simp, rfl⟩))
  | crc => cases h; exact .inr (.inr (.inr ⟨by simp, by simp, rfl⟩))
  | result => cases h; exact .inr (.inr (.inr ⟨by simp, by simp, rfl⟩))
  | reserved => cases h; exact .inr (.inr (.inr ⟨by simp, by simp, rfl⟩))

theorem writeReg_answers_next (r : WindowReg) (v : Word) (s : State) : ∃ t, writeReg r v s = .next t := by
  cases r with
  | cmd =>
    simp only [writeReg, writeCmd]
    split
    · exact ⟨_, rfl⟩
    · exact acceptCommand_answers_next v s
  | _ => exact ⟨_, rfl⟩

/-- No HOST access stops the machine: a refused one gets the error response (R55). -/
theorem hostAccess_answers_next (a : HostAccess) (s : State) : ∃ t, hostAccess a s = .next t := by
  unfold hostAccess
  split
  · exact ⟨_, rfl⟩
  · split
    · exact ⟨_, rfl⟩
    · split
      · exact ⟨_, rfl⟩
      · exact writeReg_answers_next _ _ _

/-! ### The step -/

/-- What a step can do: nothing, or the next move of an outside agent. -/
theorem step_cases {s t : State} (h : step s = .next t) :
    s.params.wf = true ∧
      ((s.inputs = [] ∧ t = s) ∨ ∃ e rest, s.inputs = e :: rest ∧ perform e (s.setInputs rest) = .next t) := by
  unfold step at h
  split at h
  · refine ⟨‹_›, ?_⟩
    split at h
    · cases h; exact .inl ⟨‹_›, rfl⟩
    · exact .inr ⟨_, _, ‹_›, h⟩
  · cases h

theorem step_input {s : State} {e : Event} {rest : List Event} (hw : s.params.wf = true) (hi : s.inputs = e :: rest) :
    step s = perform e (s.setInputs rest) := by
  simp [step, hw, hi]

end Sys2Proof.Machine
end

