-- ==== Sys2Proof/Laws/HostPort.lean ====
section
/-! SUPPORT. Where the register window lies, and what an admitted access to it does as a step. -/

namespace Sys2Proof.Machine

/-- A well-formed base is 32-byte aligned, so the window does not wrap (R50). -/
theorem base_of_wf {p : Params} (h : p.wf = true) : p.base.toNat % 32 = 0 ∧ p.base.toNat + 32 ≤ 2 ^ 32 := by
  simp only [Params.wf, Bool.and_eq_true, beq_iff_eq] at h
  have low := congrArg BitVec.toNat h.1
  simp only [BitVec.extractLsb'_toNat] at low
  have := p.base.isLt
  simp at low
  omega

theorem windowOffset_eq_some {p : Params} (h : p.wf = true) {a : Word} {offset : Nat} :
    windowOffset p a = some offset ↔ a.toNat = p.base.toNat + offset ∧ offset < 32 := by
  have := base_of_wf h
  have := a.isLt
  have e : (a - p.base).toNat = (2 ^ 32 - p.base.toNat + a.toNat) % 2 ^ 32 := BitVec.toNat_sub a p.base
  simp only [windowOffset, e]
  split <;> simp <;> omega

theorem windowOffset_eq_none {p : Params} (h : p.wf = true) {a : Word} :
    windowOffset p a = none ↔ a.toNat < p.base.toNat ∨ p.base.toNat + 32 ≤ a.toNat := by
  have := base_of_wf h
  have := a.isLt
  have e : (a - p.base).toNat = (2 ^ 32 - p.base.toNat + a.toNat) % 2 ^ 32 := BitVec.toNat_sub a p.base
  simp only [windowOffset, e]
  split <;> simp <;> omega

/-- The address `P_BASE + offset` is at `offset` in the window (R50). -/
theorem windowOffset_base_add (p : Params) {offset : Nat} (h : offset < 32) :
    windowOffset p (p.base + BitVec.ofNat 32 offset) = some offset := by
  have : (p.base + BitVec.ofNat 32 offset - p.base).toNat = offset := by
    rw [BitVec.add_comm, BitVec.add_sub_cancel, BitVec.toNat_ofNat]
    omega
  rw [windowOffset, this, if_pos h]

/-- An admitted access is at its offset from `P_BASE`, below 32. -/
theorem Admitted.addr_eq {s : State} {a : HostAccess} {offset : Nat} (hw : s.params.wf = true)
    (h : Admitted a offset s) : a.addr = s.params.base + BitVec.ofNat 32 offset ∧ offset < 32 := by
  obtain ⟨at_, lt⟩ := (windowOffset_eq_some hw).1 h.1
  have := base_of_wf hw
  refine ⟨BitVec.eq_of_toNat_eq ?_, lt⟩
  rw [BitVec.toNat_add, BitVec.toNat_ofNat]
  omega

/-- An admitted write is HOST's `MemWrite(B + offset, 4, v)`. -/
theorem Admitted.eq_hostWriteAt {s : State} {a : HostAccess} {offset : Nat} {v : Word} (hw : s.params.wf = true)
    (h : Admitted a offset s) (hv : a.op = .write v) : Event.host a = hostWriteAt s.params offset v := by
  have haddr := (h.addr_eq hw).1
  have hsize := h.2.2.1
  obtain ⟨op, addr, size⟩ := a
  simp only at hv haddr hsize
  rw [hv, haddr, hsize]
  rfl

/-- The offsets of CMD and STATUS, the two registers that take writes (R22, R56). -/
theorem windowReg_eq {offset : Nat} (lt : offset < 32) (aligned : offset % 4 = 0) :
    (windowReg offset = .cmd ↔ offset = 0) ∧ (windowReg offset = .status ↔ offset = 4) := by
  have : offset = 0 ∨ offset = 4 ∨ offset = 8 ∨ offset = 12 ∨ offset = 16 ∨ offset = 20 ∨ offset = 24 ∨
      offset = 28 := by omega
  rcases this with rfl | rfl | rfl | rfl | rfl | rfl | rfl | rfl <;> decide

section Steps

variable {s : State} {offset : Nat} {v : Word} {rest : List Event} (hw : s.params.wf = true) (hr : s.rst = false)

include hw hr

/-- A read in the window (R56). -/
theorem step_window_read (lt : offset < 32) (aligned : offset % 4 = 0)
    (hi : s.inputs = hostReadAt s.params offset :: rest) :
    step s = .next ((s.setInputs rest).respond (.data (readReg (windowReg offset) s))) := by
  have adm : Admitted { op := .read, addr := s.params.base + BitVec.ofNat 32 offset, size := 4 } offset
      (s.setInputs rest) := ⟨windowOffset_base_add _ lt, hr, rfl, aligned⟩
  rw [step_input hw hi]
  simp only [perform, hostReadAt]
  rw [hostAccess_admitted adm]
  cases windowReg offset <;> rfl

/-- A write in the window (R56). -/
theorem step_window_write (lt : offset < 32) (aligned : offset % 4 = 0)
    (hi : s.inputs = hostWriteAt s.params offset v :: rest) :
    step s = writeReg (windowReg offset) v ((s.setInputs rest).respond .written) := by
  have adm : Admitted { op := .write v, addr := s.params.base + BitVec.ofNat 32 offset, size := 4 } offset
      (s.setInputs rest) := ⟨windowOffset_base_add _ lt, hr, rfl, aligned⟩
  rw [step_input hw hi]
  simp only [perform, hostWriteAt]
  rw [hostAccess_admitted adm]

/-- A CMD write when the block is idle is the accept of its word (R23). -/
theorem step_cmd_write (hp : s.phase = .idle) (hi : s.inputs = hostWriteAt s.params 0 v :: rest) :
    step s = acceptCommand v ((s.setInputs rest).respond .written) := by
  rw [step_window_write hw hr (by decide) rfl hi]
  simp [writeReg, windowReg, writeCmd, State.busy, hp]

/-- A CMD write when the block is busy is dropped (R23, R28). -/
theorem step_cmd_write_busy (hp : s.phase = .waitBus) (hi : s.inputs = hostWriteAt s.params 0 v :: rest) :
    step s = .next ((s.setInputs rest).respond .written).setOvr := by
  rw [step_window_write hw hr (by decide) rfl hi]
  simp [writeReg, windowReg, writeCmd, State.busy, hp]

/-- A STATUS write (R24). -/
theorem step_status_write (hi : s.inputs = hostWriteAt s.params 4 v :: rest) :
    step s = .next (((s.setInputs rest).respond .written).clearStatus v) :=
  step_window_write hw hr (by decide) rfl hi

end Steps

/-- TRANSPORT's answer to the outstanding request (R62, R70). -/
theorem step_answer {s : State} {p : Pending} {ans : Answer} {rest : List Event} (hw : s.params.wf = true)
    (hp : s.phase = .waitBus) (hn : s.pending = some p) (hi : s.inputs = .answer ans :: rest) :
    step s = .next (finishCommand p ans (s.setInputs rest)) := by
  rw [step_input hw hi]
  simp [perform, blockAnswer, hp, hn]

/-- An accepted CMD write runs the accept of its word (R23). -/
theorem step_accepts {s : State} {v : Word} (hw : s.params.wf = true) (a : s.accepts v) :
    ∃ rest, step s = acceptCommand v ((s.setInputs rest).respond .written) := by
  obtain ⟨hr, hp, rest, hi⟩ := a
  exact ⟨rest, step_cmd_write hw hr hp hi⟩

/-- TRANSPORT's answer finishes the command that waits for it (R70). -/
theorem step_answers {s : State} {p : Pending} {ans : Answer} (hw : s.params.wf = true) (a : s.answers p ans) :
    ∃ rest, step s = .next (finishCommand p ans (s.setInputs rest)) := by
  obtain ⟨hp, hn, rest, hi⟩ := a
  exact ⟨rest, step_answer hw hp hn hi⟩

/-- A reset takes every piece of state (R200). -/
theorem step_resets {s : State} (hw : s.params.wf = true) (a : s.resets) :
    ∃ level rest, step s = .next ((s.setInputs rest).hardReset level) := by
  obtain ⟨level, rest, hi, h⟩ := a
  refine ⟨level, rest, ?_⟩
  rw [step_input hw hi]
  rcases driveReset_cases level (s.setInputs rest) with ⟨-, e⟩ | ⟨hl, hr, -⟩
  · simp only [perform, e]
  · exact absurd h (by simpa [hl] using hr)

/-- What the accept of a command leaves of the sequencing state: completed where it issues no request, else waiting for
the one it issues (R31, R172). -/
theorem exec_request {i : Instr} {s t : State} (h : exec i s = .next t) :
    (requestOf i s.addr = none ∧ t.phase = .idle ∧ t.pending = none ∧ t.done = true) ∨
      ∃ p, requestOf i s.addr = some p ∧ t.phase = .waitBus ∧ t.pending = some p ∧ t.done = false := by
  cases i with
  | setaddr a =>
    cases h
    refine .inl ⟨rfl, ?_⟩
    split <;> exact ⟨rfl, rfl, rfl⟩
  | nop => cases h; exact .inl ⟨rfl, rfl, rfl, rfl⟩
  | crcclr => cases h; exact .inl ⟨rfl, rfl, rfl, rfl⟩
  | crcupd b => cases h; exact .inl ⟨rfl, rfl, rfl, rfl⟩
  | crcchk p => cases h; exact .inl ⟨rfl, rfl, rfl, rfl⟩
  | rd16 r => cases h; exact .inr ⟨_, rfl, rfl, rfl, rfl⟩
  | rd16s r => cases h; exact .inr ⟨_, rfl, rfl, rfl, rfl⟩
  | wr16 r v => cases h; exact .inr ⟨_, rfl, rfl, rfl, rfl⟩
  | sendcmd c => cases h; exact .inr ⟨_, rfl, rfl, rfl, rfl⟩

/-- Everything a step can do when it answers a next state, one case for each kind of move. -/
inductive Moves (s t : State) : Prop where
  /-- No move to come. -/
  | still (h : s.inputs = []) (e : t = s)
  /-- A HOST access that only gets a response: outside the window, refused, a read, or a write without effect. -/
  | port (r : HostResponse) (rest : List Event) (h : s.inputs.tail = rest) (e : t = (s.setInputs rest).respond r)
  /-- A CMD write accepted. -/
  | accept (v : Word) (rest : List Event) (a : s.accepts v)
      (e : acceptCommand v ((s.setInputs rest).respond .written) = .next t)
  /-- A CMD write dropped. -/
  | drop (v : Word) (rest : List Event) (a : s.drops v) (e : t = ((s.setInputs rest).respond .written).setOvr)
  /-- A STATUS write. -/
  | status (v : Word) (rest : List Event) (a : s.writesStatus v)
      (e : t = ((s.setInputs rest).respond .written).clearStatus v)
  /-- TRANSPORT's answer. -/
  | answer (p : Pending) (ans : Answer) (rest : List Event) (a : s.answers p ans)
      (e : t = finishCommand p ans (s.setInputs rest))
  /-- TRANSPORT's answer to a dropped request. -/
  | late (k : Nat) (rest : List Event) (e : t = { s.setInputs rest with dropped := k })
  /-- `rst_i` asserted, held, or released. -/
  | reset (level : Bool) (rest : List Event) (a : s.resets) (e : t = (s.setInputs rest).hardReset level)
  /-- `rst_i` driven low when it was low. -/
  | noReset (rest : List Event) (e : t = s.setInputs rest)

theorem step_moves {s t : State} (h : step s = .next t) : Moves s t := by
  obtain ⟨hw, ⟨h1, h2⟩ | ⟨e, rest, h1, h2⟩⟩ := step_cases h
  · exact .still h1 h2
  cases e with
  | host a =>
    have tail : s.inputs.tail = rest := by rw [h1]; rfl
    rcases hostAccess_cases h2 with ⟨-, e⟩ | ⟨_, -, -, e⟩ | ⟨offset, adm, ⟨-, e⟩ | ⟨v, hv, e⟩⟩
    · exact .port _ rest tail e
    · exact .port _ rest tail e
    · exact .port _ rest tail e
    · have adm : Admitted a offset s := adm
      have ev := adm.eq_hostWriteAt hw hv
      have reg := windowReg_eq (adm.addr_eq hw).2 adm.2.2.2
      rcases writeReg_cases e with ⟨hr, hp, e⟩ | ⟨hr, hp, e⟩ | ⟨hr, e⟩ | ⟨-, -, e⟩
      · exact .accept v rest ⟨adm.2.1, hp, rest, by rw [h1, ev, reg.1.1 hr]⟩ e
      · exact .drop v rest ⟨adm.2.1, hp, rest, by rw [h1, ev, reg.1.1 hr]⟩ e
      · exact .status v rest ⟨adm.2.1, rest, by rw [h1, ev, reg.2.1 hr]⟩ e
      · exact .port _ rest tail e
  | answer ans =>
    obtain ⟨p, hp, hn, e⟩ := blockAnswer_cases h2
    exact .answer p ans rest ⟨hp, hn, rest, h1⟩ e
  | lateAnswer ans =>
    obtain ⟨k, -, e⟩ := lateAnswer_cases h2
    exact .late k rest e
  | reset level =>
    cases h2
    rcases driveReset_cases level (s.setInputs rest) with ⟨a, e⟩ | ⟨-, -, e⟩
    · exact .reset level rest ⟨level, rest, h1, a⟩ e
    · exact .noReset rest e

end Sys2Proof.Machine
end

