-- ==== Sys2Proof/Laws/PerInstr.lean ====
section
/-! SUPPORT. What the encoder puts in each field, one lemma per command. -/

namespace Sys2Proof.Laws

/-- R80, R85, R89: the encoder writes the command's OP, RSVD = 0, the operands in SEL and DATA, and an unused field
as 0. -/
def EncodedFields.Statement (i : Instr) : Prop :=
  opField (encode i) = opcodeOf i ∧ rsvdField (encode i) = 0#4 ∧ selField (encode i) = selOf i ∧
    dataField (encode i) = dataOf i

namespace EncodedFields

/-- The one proof the commands share. -/
theorem of_commandWord (i : Instr) : Statement i := by simp [Statement, encode]

theorem nop : Statement .nop := of_commandWord _
theorem crcclr : Statement .crcclr := of_commandWord _
theorem crcupd (b : Byte) : Statement (.crcupd b) := of_commandWord _
theorem crcchk (p : Byte) : Statement (.crcchk p) := of_commandWord _
theorem setaddr (a : Byte) : Statement (.setaddr a) := of_commandWord _
theorem rd16 (r : Byte) : Statement (.rd16 r) := of_commandWord _
theorem rd16s (r : Byte) : Statement (.rd16s r) := of_commandWord _
theorem wr16 (r : Byte) (v : Half) : Statement (.wr16 r v) := of_commandWord _
theorem sendcmd (c : Byte) : Statement (.sendcmd c) := of_commandWord _

end EncodedFields

end Sys2Proof.Laws
end

