-- ==== Sys2Proof/Tests/Slice0.lean ====
section
/-! SUPPORT. The model's own tests, small: expected values are those of 30_encoding.md rule R91, of 95_test_vectors.md
(the vector's id stands at each) or worked by hand from the rule named; and, for each statement with hypotheses, a
witness that meets them. -/

namespace Sys2Proof.Tests

open Sys2Proof.Machine

/-! ### Helpers -/

/-- The reset state with these moves to come (ADDR = 0x5A, as the vectors have it). -/
def coming (l : List Event) : State := { State.reset with inputs := l }

/-- HOST writes `v` to CMD. -/
def cmd (v : Word) : Event := hostWriteAt Config.params 0x00 v

/-- HOST writes `v` to STATUS. -/
def status (v : Word) : Event := hostWriteAt Config.params 0x04 v

/-- A read of selector 0x07 at 0x5A outstanding (V-F7), as its accept leaves it. -/
def reading (l : List Event) : State :=
  { coming l with
    cmd := 0x00000705#32, phase := .waitBus
    pending := some { req := .busWriteRead 0x5A#7 [0x07#8] 3, issuer := .rd16 0x07#8 } }

/-- The same read, signed. -/
def readingSigned (l : List Event) : State :=
  { coming l with
    cmd := 0x00000706#32, phase := .waitBus
    pending := some { req := .busWriteRead 0x5A#7 [0x07#8] 3, issuer := .rd16s 0x07#8 } }

/-- A command of byte 0xFF at 0x5A outstanding (V-F6). -/
def sending (l : List Event) : State :=
  { coming l with
    cmd := 0x0000FF08#32, crc := 0xE8#8, phase := .waitBus
    pending := some { req := .busWrite 0x5A#7 [0xFF#8, 0xE8#8], issuer := .sendcmd } }

/-- Held in reset. -/
def inReset (l : List Event) : State := { coming l with rst := true }

/-- One step, and what holds of the state it answers; false where it stops. -/
def stepHas (s : State) (f : State → Bool) : Bool :=
  match step s with
  | .next t => f t
  | .fault _ => false
  | .refused _ => false

/-- The state a step answers, or the state itself where it stops. -/
def afterStep (s : State) : State :=
  match step s with
  | .next t => t
  | .fault _ => s
  | .refused _ => s

/-! ### Decoding, each word written out from its encoding (R80, R91): DATA, SEL, RSVD, OP -/

theorem test_decode_nop : decode 0b00010010001101000101011000000000#32 = .legal .nop := by decide
theorem test_decode_crcclr : decode 0b00000000000000000000000000000001#32 = .legal .crcclr := by decide
theorem test_decode_crcupd : decode 0b10101011110011011111111100000010#32 = .legal (.crcupd 0xFF#8) := by decide
theorem test_decode_crcchk : decode 0b00000000000000001110000000000011#32 = .legal (.crcchk 0xE0#8) := by decide
theorem test_decode_setaddr : decode 0b00000000000000000101101000000100#32 = .legal (.setaddr 0x5A#8) := by decide
theorem test_decode_rd16 : decode 0b00000000000000000000011100000101#32 = .legal (.rd16 0x07#8) := by decide
theorem test_decode_rd16s : decode 0b00000000000000000010010100000110#32 = .legal (.rd16s 0x25#8) := by decide
theorem test_decode_wr16 : decode 0b00000000010110110010111000000111#32 = .legal (.wr16 0x2E#8 0x005B#16) := by decide
theorem test_decode_sendcmd : decode 0b00000000000000001111111100001000#32 = .legal (.sendcmd 0xFF#8) := by decide
theorem test_decode_reserved_bits : decode 0x0000B412#32 = .illegal .reservedBits := by decide
theorem test_decode_reserved_op : decode 0x00000009#32 = .illegal .reservedOp := by decide
theorem test_decode_short_string : decodeBytes [0x05#8, 0x07#8] = .illegal .notOneWord := by decide

/-- R91's word for `WR16 0x2E, 0x005B`. -/
theorem test_encode_wr16 : encode (.wr16 0x2E#8 0x005B#16) = 0x005B2E07#32 := by decide

theorem test_table_word : decodeTableWord 32 0x00005A04 = some (.setaddr 0x5A#8) := by decide

/-- A word placed for the next step is fetched and run by it, from reset. -/
theorem test_fetch_from_reset :
    stepHas (State.reset.withFetchWord 32 0x00000705) (fun t => t.pending == (reading []).pending) = true := by decide

/-! ### The smoke of WellFormed.lean: an ill-formed term for each check -/

theorem smoke_params : Config.params.wf = true := by decide
theorem smoke_base_unaligned : ({ Config.params with base := 0x40000010#32 } : Params).wf = false := by decide
theorem smoke_default_zero : ({ Config.params with defaultAddr := 0x00#7 } : Params).wf = false := by decide
theorem smoke_default_reserved : ({ Config.params with reserved := [0x5A#7] } : Params).wf = false := by decide
theorem smoke_crcupd : AsmLine.wf (.crcupd 256) = false := by decide
theorem smoke_crcchk : AsmLine.wf (.crcchk 256) = false := by decide
theorem smoke_setaddr : AsmLine.wf (.setaddr 256) = false := by decide
theorem smoke_rd16 : AsmLine.wf (.rd16 256) = false := by decide
theorem smoke_rd16s : AsmLine.wf (.rd16s 256) = false := by decide
theorem smoke_wr16_selector : AsmLine.wf (.wr16 256 0) = false := by decide
theorem smoke_wr16_value : AsmLine.wf (.wr16 0 65536) = false := by decide
theorem smoke_sendcmd : AsmLine.wf (.sendcmd 256) = false := by decide
theorem smoke_word : AsmLine.wf (.word 4294967296) = false := by decide
theorem smoke_erase16 : AsmLine.wf (.erase16 256) = false := by decide
theorem smoke_sleep : AsmLine.wf (.sleep 256) = false := by decide
theorem smoke_crcseq_empty : AsmLine.wf (.crcseq []) = false := by decide
theorem smoke_crcseq_byte : AsmLine.wf (.crcseq [0, 256]) = false := by decide
theorem smoke_crcframe_selector : AsmLine.wf (.crcframe 256 0) = false := by decide
theorem smoke_crcframe_value : AsmLine.wf (.crcframe 0 65536) = false := by decide

/-! ### The checksum -/

/-- V-C9: ASCII "123456789". -/
theorem test_crc_check_value :
    crc8 [0x31#8, 0x32#8, 0x33#8, 0x34#8, 0x35#8, 0x36#8, 0x37#8, 0x38#8, 0x39#8] = 0xF4#8 := by decide +kernel

/-- V-C17: the read coverage with `P_RD_PEC_RADDR` = true. -/
theorem test_crc_read_address_covered :
    crc8 (readCoverage { Config.params with rdPecRaddr := true } 0x5A#7 0x07#8 0xD2#8 0x3A#8) = 0x30#8 := by decide +kernel

/-! ### Commands, each one step -/

/-- V-N1. -/
theorem test_nop : stepHas { coming [cmd 0x00000000#32] with done := true, err := 3#4 }
    (fun t => t.statusWord == 0x00000002#32) = true := by decide

/-- V-K1. -/
theorem test_crcclr : stepHas { coming [cmd 0x00000001#32] with crc := 0xE0#8 }
    (fun t => t.crc == 0x00#8 && t.statusWord == 0x00000002#32) = true := by decide

/-- V-K8: DATA is ignored. -/
theorem test_crcupd : stepHas (coming [cmd 0xABCDFF02#32])
    (fun t => t.crc == 0xF3#8 && t.statusWord == 0x00000002#32) = true := by decide

/-- V-K6. -/
theorem test_crcchk : stepHas { coming [cmd 0x00003003#32] with crc := 0xE0#8 }
    (fun t => t.crc == 0xE0#8 && t.statusWord == 0x00000022#32) = true := by decide

/-- V-A6: 0xDA is invalid although its low seven bits are valid. -/
theorem test_setaddr_rejects : stepHas (coming [cmd 0x0000DA04#32])
    (fun t => t.addr == 0x5A#7 && t.statusWord == 0x00000032#32) = true := by decide

/-- V-A8 with the reserved set. -/
theorem test_setaddr_reserved :
    stepHas { coming [cmd 0x00007804#32] with params := { Config.params with reserved := [0x78#7] } }
      (fun t => t.addr == 0x5A#7 && t.statusWord == 0x00000032#32) = true := by decide

/-- V-F7, accept: BUSY alone. -/
theorem test_rd16_accept : stepHas (coming [cmd 0x00000705#32])
    (fun t => t.pending == (reading []).pending && t.statusWord == 0x00000001#32) = true := by decide

/-- V-F8b: a wrong checksum discards the value. -/
theorem test_rd16_mismatch : stepHas (reading [.answer (.ok [0xD2#8, 0x3A#8, 0x30#8])])
    (fun t => t.result == 0x00000000#32 && t.crc == 0xE0#8 && t.statusWord == 0x00000022#32) = true := by decide +kernel

/-- V-F13, finish: the value is sign-extended. -/
theorem test_rd16s_finish :
    stepHas { coming [.answer (.ok [0x00#8, 0x80#8, 0x5B#8])] with
        addr := 0x5B#7, phase := .waitBus
        pending := some { req := .busWriteRead 0x5B#7 [0x26#8] 3, issuer := .rd16s 0x26#8 } }
      (fun t => t.result == 0xFFFF8000#32 && t.crc == 0x5B#8 && t.statusWord == 0x00000006#32) = true := by decide +kernel

/-- V-F2, accept: the payload's order and the checksum. -/
theorem test_wr16_accept : stepHas (coming [cmd 0x005B2E07#32])
    (fun t => t.pending == some
      { req := .busWrite 0x5A#7 [0x2E#8, 0x5B#8, 0x00#8, 0x34#8], issuer := .wr16 } && t.crc == 0x34#8) = true := by
  decide +kernel

/-- V-F6, accept. -/
theorem test_sendcmd_accept : stepHas (coming [cmd 0x0000FF08#32]) (fun t => t == { sending [] with resp := .written }) =
    true := by decide +kernel

/-- V-F5b's finish, on a command: a non-empty answer to a write is TRANSPORT. -/
theorem test_sendcmd_finish : stepHas (sending [.answer (.ok [0x00#8])])
    (fun t => t.crc == 0xE8#8 && t.statusWord == 0x00000012#32) = true := by decide

/-- V-K9: an illegal word keeps CRC and stands in CMD. -/
theorem test_illegal : stepHas { coming [cmd 0x0000B412#32] with crc := 0x05#8 }
    (fun t => t.crc == 0x05#8 && t.cmd == 0x0000B412#32 && t.statusWord == 0x00000042#32) = true := by decide

/-! ### The HOST port and reset -/

/-- V-H1. -/
theorem test_cmd_dropped_when_busy : stepHas (reading [cmd 0x00000001#32])
    (fun t => t.cmd == 0x00000705#32 && t.statusWord == 0x00000009#32 && t.crc == 0x00#8) = true := by decide

/-- V-H3. -/
theorem test_status_write_one_to_clear :
    stepHas { coming [status 0x000000FC#32] with done := true, ovr := true }
      (fun t => t.statusWord == 0x00000002#32) = true := by decide

/-- V-H5, the byte read. -/
theorem test_byte_access_refused :
    stepHas (coming [.host { op := .read, addr := 0x40000004#32, size := 1 }])
      (fun t => t == { State.reset with resp := .accessError }) = true := by decide

/-- V-H7, ADDR. -/
theorem test_reset_addr_read : stepHas (coming [hostReadAt Config.params 0x08])
    (fun t => t.resp == .data 0x0000005A#32) = true := by decide

/-- R201: the late answer to a request that a reset dropped is ignored. -/
theorem test_late_answer_ignored : stepHas { coming [.lateAnswer .err] with dropped := 1 }
    (fun t => t == State.reset) = true := by decide

/-- R90's CRCFRAME at ADDR 0x5A, with program P3's words. -/
theorem test_assemble_crcframe : assemble 0x5A#7 (.crcframe 0x07 0x3AD2) =
    some [0x00000001#32, 0x0000B402#32, 0x00000702#32, 0x0000D202#32, 0x00003A02#32] := by decide

theorem test_assemble_wr16 : assemble 0x5A#7 (.wr16 0x2E 0x005B) = some [0x005B2E07#32] := by decide

/-! ### Witnesses: for each statement with hypotheses, a state and operands that meet them -/

theorem ready_coming (l : List Event) : (coming l).ready := ⟨(by decide : Config.params.wf = true), rfl, rfl, rfl⟩

theorem witness_UnusedFieldsAreIgnored :
    decode 0xABCDFF02#32 = .legal (.crcupd 0xFF#8) ∧
      0xABCDFF02#32 &&& usedMask (.crcupd 0xFF#8) = 0x0000FF02#32 &&& usedMask (.crcupd 0xFF#8) ∧
      ∃ t, acceptCommand 0xABCDFF02#32 State.reset = .next t := ⟨by decide, by decide, _, rfl⟩

/-- RSVD and OP at their first illegal values, and OP at its last. -/
theorem witness_IllegalWordsOnlyRecordIllegalCmd :
    (∃ why, decode 0x00000010#32 = .illegal why) ∧ (∃ why, decode 0x00000009#32 = .illegal why) ∧
      (∃ why, decode 0x0000000F#32 = .illegal why) ∧ (coming [cmd 0x00000009#32]).ready ∧
      (coming [cmd 0x00000009#32]).inputs = [hostWriteAt (coming []).params 0x00 0x00000009#32] :=
  ⟨⟨_, rfl⟩, ⟨_, rfl⟩, ⟨_, rfl⟩, ready_coming _, rfl⟩

theorem witness_HostLanesAreLittleEndian : (3 < 4 ∧ 7 < 8) ∧ ((lanes 0x80000000#32).getD 3 0#8).getLsbD 7 = true := by
  decide

theorem witness_CrcIsLinearWithZeroResidue : [0xB4#8, 0x07#8].length = [0x00#8, 0x01#8].length := by decide

/-- The highest bit of a byte. -/
theorem witness_CrcDetectsEverySingleBitChange : 7 < 8 ∧ 0x00#8 ^^^ BitVec.twoPow 8 7 = 0x80#8 := by decide

/-- The idle state that NopCompletesWithNoEffect, CrcclrClearsTheAccumulator, CrcupdFeedsOneByte,
CrcchkComparesTheAccumulator, Rd16ReadsZeroExtended, Rd16sReadsSignExtended, Wr16SendsTheFrame and SendcmdSendsTheFrame
start from. -/
theorem witness_idle_commands : State.reset.phase = .idle ∧ State.reset.pending = none := ⟨rfl, rfl⟩

/-- CrcclrClearsTheAccumulator's last clause: RSVD = 1. -/
theorem witness_CrcclrClearsTheAccumulator : (1#4 : BitVec 4) ≠ 0#4 ∧
    ∃ t, acceptCommand (commandWord 0#16 0#8 1#4 0x1#4) State.reset = .next t := ⟨by decide, _, rfl⟩

theorem witness_CrcchkComparesTheAccumulator :
    ∃ t, State.reset.phase = .idle ∧ State.reset.pending = none ∧
      execAll [.crcclr, .crcchk 0x00#8] State.reset = .next t := ⟨_, rfl, rfl, rfl⟩

/-- The boundary candidates 0x01 and 0x7F are valid, 0x00 and 0x80 are not, and ADDR itself is valid. -/
theorem witness_SetaddrLoadsOnlyValidAddresses :
    State.reset.phase = .idle ∧ State.reset.pending = none ∧ validAddr State.reset.params (0#1 ++ State.reset.addr) ∧
      validAddr Config.params 0x01#8 ∧ validAddr Config.params 0x7F#8 ∧ ¬ validAddr Config.params 0x00#8 ∧
      ¬ validAddr Config.params 0x80#8 := by decide

theorem witness_Rd16sReadsSignExtended : ∃ t t' u u', exec (.rd16 0x07#8) State.reset = .next t ∧
    exec (.rd16s 0x07#8) State.reset = .next t' ∧ blockAnswer (.ok [0x00#8, 0x80#8, 0x5F#8]) t = .next u ∧
    blockAnswer (.ok [0x00#8, 0x80#8, 0x5F#8]) t' = .next u' := ⟨_, _, _, _, rfl, rfl, rfl, rfl⟩

theorem witness_ReadFinishChecksTheChecksum :
    (reading [.answer .err]).params.wf = true ∧ (reading [.answer .err]).phase = .waitBus ∧
      (reading [.answer .err]).inputs = [.answer .err] ∧
      (reading []).pending = some { req := .busWriteRead 0x5A#7 [0x07#8] 3, issuer := .rd16 0x07#8 } ∧
      (readingSigned []).pending = some { req := .busWriteRead 0x5A#7 [0x07#8] 3, issuer := .rd16s 0x07#8 } := by decide

/-- The lowest and the highest address, and a command that issues a request. -/
theorem witness_FramesStartFromTheAddressByteNotFromCrc :
    (validAddr Config.params (0#1 ++ 0x01#7) ∧ validAddr Config.params (0#1 ++ 0x7F#7)) ∧
      requestOf (.wr16 0x2E#8 0x005B#16) State.reset.addr ≠ none ∧
      (∃ t, exec (.wr16 0x2E#8 0x005B#16) State.reset = .next t) ∧
      ∃ t, exec (.wr16 0x2E#8 0x005B#16) { State.reset with crc := 0xFF#8 } = .next t :=
  ⟨by decide, by decide, ⟨_, rfl⟩, _, rfl⟩

theorem witness_EveryCommandCompletesWithACodeOfItsRow :
    (coming [cmd 0x00000000#32]).ready ∧ decode 0x00000000#32 = .legal .nop ∧ requestOf .nop 0x5A#7 = none ∧
      (coming [cmd 0x00000705#32, .answer .err]).ready ∧ decode 0x00000705#32 = .legal (.rd16 0x07#8) ∧
      requestOf (.rd16 0x07#8) 0x5A#7 ≠ none ∧
      (coming [cmd 0x00000705#32, .answer .err]).inputs =
        [hostWriteAt (coming []).params 0x00 0x00000705#32, .answer .err] :=
  ⟨ready_coming _, by decide, rfl, ready_coming _, by decide, by decide, rfl⟩

/-- A failed transfer; and two different answers that both fail the check. -/
theorem witness_AFailedReadLeavesNothingToRead : ∃ t, exec (.rd16 0x07#8) State.reset = .next t ∧
    (∃ u, blockAnswer .err t = .next u ∧ u.err ≠ 0#4) ∧
    ∃ u u', blockAnswer (.ok [0xD2#8, 0x3A#8, 0x30#8]) t = .next u ∧
      blockAnswer (.ok [0x00#8, 0x00#8, 0x00#8]) t = .next u' ∧ u.err = 2#4 ∧ u'.err = 2#4 :=
  ⟨_, rfl, ⟨_, rfl, by decide +kernel⟩, _, _, rfl, rfl, by decide +kernel, by decide +kernel⟩

theorem witness_StepRunsTheDecodedCommand : (coming [cmd 0x0000B402#32]).ready ∧
    decode 0x0000B402#32 = .legal (.crcupd 0xB4#8) ∧
    (coming [cmd 0x0000B402#32]).inputs = [hostWriteAt (coming []).params 0x00 0x0000B402#32] :=
  ⟨ready_coming _, by decide, rfl⟩

theorem accepts_coming (v : Word) : (coming [cmd v]).accepts v := ⟨rfl, rfl, [], rfl⟩

theorem drops_reading (v : Word) : (reading [cmd v]).drops v := ⟨rfl, rfl, [], rfl⟩

theorem writesStatus_coming (v : Word) : (coming [status v]).writesStatus v := ⟨rfl, [], rfl⟩

theorem answers_reading (ans : Answer) :
    (reading [.answer ans]).answers { req := .busWriteRead 0x5A#7 [0x07#8] 3, issuer := .rd16 0x07#8 } ans :=
  ⟨rfl, rfl, [], rfl⟩

theorem resets_reading : (reading [.reset true]).resets := ⟨true, [], rfl, .inl rfl⟩

theorem witness_CmdHoldsTheLastAcceptedWord :
    (coming [cmd 0x00000009#32]).accepts 0x00000009#32 ∧ (reading [cmd 0x00000001#32]).drops 0x00000001#32 ∧
      (coming [hostReadAt Config.params 0x00]).rst = false ∧
      ∃ t, step (coming [cmd 0x00000009#32]) = .next t ∧ t.cmd ≠ (coming [cmd 0x00000009#32]).cmd :=
  ⟨accepts_coming _, drops_reading _, rfl, _, rfl, by decide⟩

theorem witness_OvrIsStickyUntilCleared :
    (∃ t, step (reading [cmd 0x00000001#32]) = .next t ∧ (reading [cmd 0x00000001#32]).ovr = false ∧ t.ovr = true) ∧
      (∃ t, exec .nop State.reset = .next t) ∧
      (∃ t, step { coming [status 0x00000008#32] with ovr := true } = .next t ∧ t.ovr = false) ∧
      (coming [status 0x00000008#32]).writesStatus 0x00000008#32 ∧ (0x00000008#32).getLsbD 3 = true :=
  ⟨⟨_, rfl, rfl, rfl⟩, ⟨_, rfl⟩, ⟨_, rfl, by decide⟩, writesStatus_coming _, by decide⟩

/-- The first and the last word of the window, read and written. -/
theorem witness_WindowAccessesReachTheirRegisters :
    (coming [hostReadAt Config.params (4 * 0)]).rst = false ∧ 0 < 8 ∧ 7 < 8 ∧
      (coming [hostReadAt Config.params (4 * 0)]).inputs = [hostReadAt (coming []).params (4 * 0)] ∧
      (coming [hostReadAt Config.params (4 * 7)]).inputs = [hostReadAt (coming []).params (4 * 7)] ∧
      (coming [hostWriteAt Config.params (4 * 7) 0x1#32]).inputs = [hostWriteAt (coming []).params (4 * 7) 0x1#32] :=
  ⟨rfl, by decide, by decide, rfl, rfl, rfl⟩

theorem witness_StatusFieldsStandWhereTheTableSays :
    (coming [status 0x000000FC#32]).writesStatus 0x000000FC#32 ∧ ∃ t, step (coming [status 0x000000FC#32]) = .next t :=
  ⟨writesStatus_coming _, _, rfl⟩

/-- A byte read at the window's first byte, and a 32-bit read at its last byte. -/
theorem witness_NarrowOrUnalignedAccessesAreRefused :
    ((0x40000000#32).toNat ≤ (0x40000000#32).toNat ∧ (0x40000000#32).toNat < (0x40000000#32).toNat + 32 ∧ 1 ≠ 4) ∧
      ((0x40000000#32).toNat ≤ (0x4000001F#32).toNat ∧ (0x4000001F#32).toNat < (0x40000000#32).toNat + 32 ∧
        (0x4000001F#32).toNat % 4 ≠ 0) ∧
      stepHas (coming [.host { op := .read, addr := 0x4000001F#32, size := 4 }]) (·.resp == .accessError) = true := by
  decide

/-- The bytes on either side of the window. -/
theorem witness_AccessesOutsideTheWindowAreNotTheBlocks :
    (0x3FFFFFFF#32).toNat < (0x40000000#32).toNat ∧ (0x40000000#32).toNat + 32 ≤ (0x40000020#32).toNat ∧
      stepHas (coming [.host { op := .read, addr := 0x40000020#32, size := 4 }]) (·.resp == .silent) = true := by
  decide

theorem witness_ResetTakesEveryPieceOfState :
    (reading [.reset true]).inputs = [.reset true] ∧ (inReset [.reset false]).rst = true ∧
      (inReset [hostReadAt Config.params 0x04]).rst = true ∧
      (0x40000000#32).toNat ≤ (0x40000004#32).toNat ∧ (0x40000004#32).toNat < (0x40000000#32).toNat + 32 ∧
      Config.params.wf = true ∧
      validAddr { Config.params with defaultAddr := 0x00#7 } (0#1 ++ 0x00#7) = false := by decide

theorem witness_ResetDropsTheRequestAndIgnoresItsAnswer :
    (reading [.reset true]).pending ≠ none ∧ (reading [.reset true]).inputs = [.reset true] ∧
      ({ coming [.lateAnswer .err] with dropped := 1 } : State).dropped = 0 + 1 := by decide

/-- The invariant's case that says most: a request outstanding. -/
theorem inv_reading (l : List Event) : (reading l).Inv where
  paramsWf := (by decide : Config.params.wf = true)
  addrValid := (by decide : validAddr Config.params (0#1 ++ 0x5A#7) = true)
  errKnown := (by decide : (0#4).toNat ≤ 4)
  waiting_iff := ⟨fun _ => rfl, fun _ => rfl⟩
  discarded := fun _ => rfl
  extended := .inl (by decide : 0x00000000#32 = zext32 ((0x00000000#32).extractLsb' 0 16))
  outstanding := fun p hp => by
    cases hp
    exact ⟨⟨.rd16 0x07#8, (by decide : decode 0x00000705#32 = .legal (.rd16 0x07#8)), rfl⟩, rfl, rfl, rfl,
      fun _ => ⟨rfl, rfl⟩, fun h => absurd h (by decide : (3 : Nat) ≠ 0)⟩
  heldInReset := fun h => nomatch h

/-- And a command outstanding, whose checksum CRC keeps. -/
theorem inv_sending (l : List Event) : (sending l).Inv where
  paramsWf := (by decide : Config.params.wf = true)
  addrValid := (by decide : validAddr Config.params (0#1 ++ 0x5A#7) = true)
  errKnown := (by decide : (0#4).toNat ≤ 4)
  waiting_iff := ⟨fun _ => rfl, fun _ => rfl⟩
  discarded := fun _ => rfl
  extended := .inl (by decide : 0x00000000#32 = zext32 ((0x00000000#32).extractLsb' 0 16))
  outstanding := fun p hp => by
    cases hp
    exact ⟨⟨.sendcmd 0xFF#8, (by decide : decode 0x0000FF08#32 = .legal (.sendcmd 0xFF#8)),
      (by decide +kernel : requestOf (.sendcmd 0xFF#8) 0x5A#7 = (sending []).pending)⟩, rfl, rfl, rfl,
      fun h => absurd h (by decide : (0 : Nat) ≠ 3), fun _ => rfl⟩
  heldInReset := fun h => nomatch h

theorem witness_InvariantHoldsAtReset : Config.params.wf = true := by decide

theorem witness_EveryStepKeepsTheInvariant : (reading [.answer (.ok [0xD2#8, 0x3A#8, 0xE0#8])]).Inv ∧
    (∃ t, step (reading [.answer (.ok [0xD2#8, 0x3A#8, 0xE0#8])]) = .next t ∧ t.valid = true) ∧
    (sending [.answer .err]).Inv := ⟨inv_reading _, ⟨_, rfl, by decide +kernel⟩, inv_sending _⟩

theorem witness_OnlySetaddrWritesAddr : ∃ t, step (coming [cmd 0x00005B04#32]) = .next t ∧
    t.addr ≠ (coming [cmd 0x00005B04#32]).addr := ⟨_, rfl, by decide⟩

theorem witness_OnlyChecksumCommandsWriteCrc :
    (∃ t, step (coming [cmd 0x0000FF02#32]) = .next t ∧ t.crc ≠ (coming []).crc) ∧
    (∃ t, step (reading [.answer (.ok [0xD2#8, 0x3A#8, 0xE0#8])]) = .next t ∧ t.crc ≠ (reading []).crc) ∧
    (coming [cmd 0x0000FF08#32]).accepts 0x0000FF08#32 ∧ decode 0x0000FF08#32 = .legal (.sendcmd 0xFF#8) ∧
    (reading [.answer (.ok [0xD2#8, 0x3A#8, 0x30#8])]).answers
      { req := .busWriteRead 0x5A#7 [0x07#8] 3, issuer := .rd16 0x07#8 } (.ok [0xD2#8, 0x3A#8, 0x30#8]) :=
  ⟨⟨_, rfl, by decide +kernel⟩, ⟨_, rfl, by decide +kernel⟩, accepts_coming _, by decide, answers_reading _⟩

theorem witness_OnlyReadsWriteResultAndValid :
    (∃ t, step { coming [cmd 0x00000705#32] with valid := true } = .next t ∧ t.valid ≠ true) ∧
    ∃ t, step (reading [.answer (.ok [0xD2#8, 0x3A#8, 0xE0#8])]) = .next t ∧ t.valid ≠ (reading []).valid :=
  ⟨⟨_, rfl, by decide +kernel⟩, _, rfl, by decide +kernel⟩

theorem witness_OneRequestPerCommandAndNoRetry :
    (∃ t p, step (coming [cmd 0x00000705#32]) = .next t ∧ (coming [cmd 0x00000705#32]).pending = none ∧
      t.pending = some p) ∧
    (∃ t, step (reading [cmd 0x00000001#32]) = .next t) ∧ (reading [cmd 0x00000001#32]).Inv ∧
    (reading [cmd 0x00000001#32]).pending ≠ none ∧ (∃ t, step (reading [.answer .err]) = .next t) ∧
    ((coming [cmd 0x00000705#32]).accepts 0x00000705#32 ∧ decode 0x00000705#32 = .legal (.rd16 0x07#8) ∧
      requestOf (.rd16 0x07#8) 0x5A#7 = (reading []).pending) ∧
    (coming [cmd 0x00000009#32]).accepts 0x00000009#32 ∧ decode 0x00000009#32 = .illegal .reservedOp :=
  ⟨⟨_, _, rfl, rfl, rfl⟩, ⟨_, rfl⟩, inv_reading _, by decide, ⟨_, rfl⟩,
    ⟨accepts_coming _, by decide, rfl⟩, accepts_coming _, by decide⟩

theorem witness_OnlyAnAnswerOrResetEndsAWait :
    ((reading []).params.wf = true ∧ (reading []).phase = .waitBus ∧ (reading []).inputs = []) ∧
    (reading [.answer .err]).Inv ∧ ∃ t, step (reading [.answer .err]) = .next t ∧ t.phase ≠ .waitBus :=
  ⟨by decide, inv_reading _, _, rfl, by decide⟩

theorem witness_AnAnswerCompletesTheCommand : (sending [.answer .err]).Inv ∧ (sending [.answer .err]).phase = .waitBus ∧
    (sending [.answer .err]).inputs = [.answer .err] := ⟨inv_sending _, rfl, rfl⟩

theorem witness_IrqRisesOnlyAtCompletion :
    (∃ t, step (coming [cmd 0x00000000#32]) = .next t ∧ (coming [cmd 0x00000000#32]).irq = false ∧ t.irq = true) ∧
    (∃ t, step { coming [status 0x00000002#32] with done := true } = .next t ∧ t.irq = false) ∧
    ((coming [cmd 0x00000705#32]).accepts 0x00000705#32 ∧ decode 0x00000705#32 = .legal (.rd16 0x07#8)) ∧
    (reading [.answer .err]).answers { req := .busWriteRead 0x5A#7 [0x07#8] 3, issuer := .rd16 0x07#8 } .err ∧
    ((coming [status 0x00000002#32]).writesStatus 0x00000002#32 ∧ (0x00000002#32).getLsbD 1 = true) ∧
    (reading [.reset true]).resets :=
  ⟨⟨_, rfl, rfl, by decide⟩, ⟨_, rfl, by decide⟩, ⟨accepts_coming _, by decide⟩, answers_reading _,
    ⟨writesStatus_coming _, by decide⟩, resets_reading⟩

/-- Both kinds of stop happen. -/
theorem witness_StopsOnlyWhereTheSpecHasNoStep :
    step (coming [.answer .err]) = .fault .answerWithoutRequest ∧
    step (coming [.lateAnswer .err]) = .fault .answerWithoutRequest ∧
    step { State.reset with params := { Config.params with base := 0x00000001#32 } } = .refused .illFormedParams :=
  ⟨rfl, rfl, rfl⟩

theorem witness_ANextCommandOverwritesTheOutcome :
    ∃ t t', ({ State.reset with valid := true } : State).phase = .idle ∧
      exec (.crcchk 0x00#8) { State.reset with valid := true } = .next t ∧
      exec (.rd16 0x07#8) { State.reset with valid := true } = .next t' := ⟨_, _, rfl, rfl, rfl⟩

/-- Operands at the ends of their fields. -/
theorem witness_PseudoCommandsExpandAsTheTableSays : (∀ x ∈ [0, 255], x < 256) ∧ 255 < 256 ∧ 65535 < 65536 := by decide

/-- Each kind of operand at its last value and just past it, and a CRCSEQ of nothing. -/
theorem witness_TheAssemblerRejectsOperandsThatDoNotFit :
    assemble 0x5A#7 (.sendcmd 255) = some [0x0000FF08#32] ∧ assemble 0x5A#7 (.sendcmd 256) = none ∧
      assemble 0x5A#7 (.wr16 255 65535) = some [0xFFFFFF07#32] ∧ assemble 0x5A#7 (.wr16 255 65536) = none ∧
      assemble 0x5A#7 (.wr16 256 65535) = none ∧ assemble 0x5A#7 (.word 4294967295) = some [0xFFFFFFFF#32] ∧
      assemble 0x5A#7 (.word 4294967296) = none ∧ assemble 0x5A#7 (.crcseq []) = none ∧
      assemble 0x5A#7 (.crcseq [255]) = some [0x00000001#32, 0x0000FF02#32] ∧
      assemble 0x5A#7 (.crcseq [256]) = none := by decide

end Sys2Proof.Tests
end

section
/-! The statements of the state family (10_state.md): CMD, STATUS, CRC, the window and the reset values. Each follows
from the cases of one step (`step_moves`) and from what the accept and the finish of a command leave in the register. -/

namespace Sys2Proof.Machine

/-! ### What a step leaves of the registers -/

/-- A step either accepts a command, takes TRANSPORT's answer, is a reset, or leaves every register but STATUS's DONE
and OVR as it was (R34, R35, R56). -/
theorem step_registers {s t : State} (h : step s = .next t) :
    (∃ v rest, s.accepts v ∧ acceptCommand v ((s.setInputs rest).respond .written) = .next t) ∨
      (∃ p ans rest, s.answers p ans ∧ t = finishCommand p ans (s.setInputs rest)) ∨
      s.resets ∨
      (t.cmd = s.cmd ∧ t.addr = s.addr ∧ t.crc = s.crc ∧ t.result = s.result ∧ t.valid = s.valid ∧ t.err = s.err) := by
  cases step_moves h with
  | accept v rest a e => exact .inl ⟨v, rest, a, e⟩
  | answer p ans rest a e => exact .inr (.inl ⟨p, ans, rest, a, e⟩)
  | reset _ _ a _ => exact .inr (.inr (.inl a))
  | still _ e | port _ _ _ e | drop _ _ _ e | status _ _ _ e | late _ _ e | noReset _ e =>
    subst e
    exact .inr (.inr (.inr ⟨rfl, rfl, rfl, rfl, rfl, rfl⟩))

/-- What a step does to OVR: a dropped CMD write sets it, a STATUS write clears it by bit 3, reset takes it, and any
other step leaves it (R28). -/
theorem step_ovr {s t : State} (h : step s = .next t) :
    ((∃ v, s.drops v) ∧ t.ovr = true) ∨
      (∃ v, s.writesStatus v ∧ t.ovr = (s.ovr && !v.getLsbD 3)) ∨
      (s.resets ∧ t.ovr = false) ∨
      t.ovr = s.ovr := by
  cases step_moves h with
  | drop v _ a e => subst e; exact .inl ⟨⟨v, a⟩, rfl⟩
  | status v _ a e => subst e; exact .inr (.inl ⟨v, a, rfl⟩)
  | reset _ _ a e => subst e; exact .inr (.inr (.inl ⟨a, rfl⟩))
  | accept v rest _ e =>
    obtain ⟨-, -, ovr, -⟩ := acceptCommand_keeps e
    exact .inr (.inr (.inr ovr))
  | answer p ans rest _ e =>
    obtain ⟨-, -, -, ovr, -⟩ := finishCommand_keeps p ans (s.setInputs rest)
    subst e
    exact .inr (.inr (.inr ovr))
  | still _ e | port _ _ _ e | late _ _ e | noReset _ e =>
    subst e
    exact .inr (.inr (.inr rfl))

/-! ### CMD (R23) -/

/-- A step changes CMD only by accepting the word CMD then holds, or by reset. -/
theorem accepts_or_resets_of_cmd_ne {s t : State} (h : step s = .next t) (ne : t.cmd ≠ s.cmd) :
    s.accepts t.cmd ∨ s.resets := by
  rcases step_registers h with ⟨v, rest, a, e⟩ | ⟨p, ans, rest, -, rfl⟩ | r | ⟨same, -⟩
  · obtain ⟨-, cmd, -⟩ := acceptCommand_keeps e
    exact .inl (cmd ▸ a)
  · obtain ⟨-, -, cmd, -⟩ := finishCommand_keeps p ans (s.setInputs rest)
    exact absurd cmd ne
  · exact .inr r
  · exact absurd same ne

/-- Settles O28: the accept and the drop of a CMD write, the read back, and CMD's other writers. -/
theorem cmdHoldsTheLastAcceptedWord : Obligations.CmdHoldsTheLastAcceptedWord := by
  refine ⟨fun s v rest hw ⟨hr, hp, _⟩ hi => ?_, fun s v rest hw ⟨hr, hp, _⟩ hi => ?_,
    fun s rest hw hr hi => step_window_read hw hr (by decide) rfl hi,
    fun s t => accepts_or_resets_of_cmd_ne, State.resetWith_cmd⟩
  · obtain ⟨t, ht⟩ := acceptCommand_answers_next v ((s.setInputs rest).respond .written)
    obtain ⟨-, cmd, -⟩ := acceptCommand_keeps ht
    refine ⟨t, .written, nofun, (step_cmd_write hw hr hp hi).trans ht, cmd, ?_⟩
    rcases acceptCommand_cases ht with ⟨i, hd, e⟩ | ⟨why, hd, e⟩
    · exact .inl ⟨i, hd, e⟩
    · exact .inr ⟨⟨why, hd⟩, e⟩
  · exact ⟨.written, nofun, step_cmd_write_busy hw hr hp hi⟩

/-! ### OVR (R28) -/

/-- Settles O29, by what a step does to OVR (`step_ovr`). -/
theorem ovrIsStickyUntilCleared : Obligations.OvrIsStickyUntilCleared := by
  refine ⟨?dropSets, ?setByDrop, ?commandKeeps, ?clearedBy, ?bitThreeClears⟩
  case dropSets =>
    intro s v hw ⟨hr, hp, rest, hi⟩
    exact ⟨_, step_cmd_write_busy hw hr hp hi, rfl⟩
  case setByDrop =>
    intro s t h clear set
    rcases step_ovr h with ⟨d, -⟩ | ⟨v, -, e⟩ | ⟨-, e⟩ | e
    · exact d
    · simp [e, clear] at set
    · simp [e] at set
    · simp [e, clear] at set
  case commandKeeps =>
    intro i s t h
    obtain ⟨-, -, ovr, -⟩ := exec_keeps h
    exact ovr
  case clearedBy =>
    intro s t h set clear
    rcases step_ovr h with ⟨-, e⟩ | ⟨v, w, e⟩ | ⟨r, -⟩ | e
    · simp [e] at clear
    · exact .inl ⟨v, w, by simpa [e, set] using clear⟩
    · exact .inr r
    · simp [e, set] at clear
  case bitThreeClears =>
    intro s v hw ⟨hr, rest, hi⟩ bit
    exact ⟨_, step_status_write hw hr hi, by simp [bit]⟩

/-! ### The window (R22, R56) -/

/-- Only CMD and STATUS take writes (R56). -/
theorem writeReg_of_ne {r : WindowReg} (hc : r ≠ .cmd) (hs : r ≠ .status) (v : Word) (s : State) :
    writeReg r v s = .next s := by
  cases r with
  | cmd => exact absurd rfl hc
  | status => exact absurd rfl hs
  | _ => rfl

/-- A CMD write, by PHASE (R23, R31). -/
theorem writeCmd_eq (v : Word) (s : State) :
    writeCmd v s = if s.phase = .idle then acceptCommand v s else .next s.setOvr := by
  cases hp : s.phase <;> simp [writeCmd, State.busy, hp]

/-- Settles O30, one read for each of the eight words, and a write to CMD, to STATUS, or past them. -/
theorem windowAccessesReachTheirRegisters : Obligations.WindowAccessesReachTheirRegisters := by
  intro s k rest hw hr hk
  have lt : 4 * k < 32 := by omega
  have aligned : 4 * k % 4 = 0 := Nat.mul_mod_right 4 k
  refine ⟨fun hi => ?_, fun v hi => ⟨.written, nofun, ?_⟩⟩
  · rw [step_window_read hw hr lt aligned hi]
    interval_cases k <;> rfl
  · rw [step_window_write hw hr lt aligned hi]
    obtain ⟨cmd_iff, status_iff⟩ := windowReg_eq lt aligned
    match k with
    | 0 => exact writeCmd_eq v _
    | 1 => rfl
    | n + 2 =>
      have notCmd : windowReg (4 * (n + 2)) ≠ .cmd := fun h => absurd (cmd_iff.1 h) (by omega)
      have notStatus : windowReg (4 * (n + 2)) ≠ .status := fun h => absurd (status_iff.1 h) (by omega)
      exact writeReg_of_ne notCmd notStatus v _

/-! ### The STATUS word (R24, R30) -/

/-- Above bit 3 the STATUS word is ERR and zeros. -/
theorem State.statusWord_high (s : State) : s.statusWord.extractLsb' 4 28 = s.err.setWidth 28 := by
  refine BitVec.eq_of_getLsbD_eq fun k hk => ?_
  simp [hk, Nat.add_comm 4 k, s.getLsbD_statusWord]

theorem State.statusWord_err (s : State) : s.statusWord.extractLsb' 4 4 = s.err := by
  refine BitVec.eq_of_getLsbD_eq fun k hk => ?_
  simp [hk, Nat.add_comm 4 k, s.getLsbD_statusWord]

/-- R30: bits 31:8 read as 0. -/
theorem State.statusWord_top (s : State) : s.statusWord.extractLsb' 8 24 = 0#24 := by
  refine BitVec.eq_of_getLsbD_eq fun k hk => ?_
  rw [BitVec.getLsbD_extractLsb', show 8 + k = (4 + k) + 4 by omega, s.getLsbD_statusWord]
  simp

/-- Settles O31, by the bits of the STATUS word and the state a STATUS write leaves. -/
theorem statusFieldsStandWhereTheTableSays : Obligations.StatusFieldsStandWhereTheTableSays := by
  constructor
  · intro s
    have bit := s.getLsbD_statusWord
    exact ⟨by rw [bit, s.busy_iff], bit 1, bit 2, bit 3, s.statusWord_err, s.statusWord_top⟩
  · intro s t v hw ⟨hr, rest, hi⟩ h
    rw [step_status_write hw hr hi] at h
    cases h
    simp only [State.getLsbD_statusWord, State.statusWord_high]
    exact ⟨rfl, rfl, rfl, rfl, rfl⟩

/-! ### CRC (R34) -/

/-- What the accept of each command leaves in CRC. -/
theorem exec_crc {i : Instr} {s t : State} (h : exec i s = .next t) : t.crc = crcAfterAccept i s := by
  cases i with
  | setaddr a =>
    cases h
    change State.crc (if validAddr s.params a then _ else _) = s.crc
    split <;> rfl
  | _ => cases h; rfl

/-- A read's finish on three bytes writes the checksum of the bytes covered, whether the third matches or not (R141). -/
theorem finishRead_crc (signed : Bool) (a : BusAddr) (sel lo hi p : Byte) (s : State) :
    (finishRead signed a sel (.ok [lo, hi, p]) s).crc = crc8 (readCoverage s.params a sel lo hi) := by
  simp only [finishRead]
  split <;> rfl

/-- A read's finish changes CRC only on three bytes. -/
theorem finishRead_crc_cases (signed : Bool) (a : BusAddr) (sel : Byte) (ans : Answer) (s : State) :
    (finishRead signed a sel ans s).crc = s.crc ∨ ∃ lo hi p, ans = .ok [lo, hi, p] := by
  rcases finishRead_cases signed a sel ans s with e | ⟨lo, hi, p, e, -⟩
  · exact .inl (by rw [e, State.complete_crc])
  · exact .inr ⟨lo, hi, p, e⟩

theorem finishWrite_crc (ans : Answer) (s : State) : (finishWrite ans s).crc = s.crc := by
  rcases finishWrite_cases ans s with ⟨-, e⟩ | ⟨-, e⟩ <;> simp [e]

/-- What the finish of an RD16 or RD16S leaves in CRC on a three-byte answer. -/
theorem finishCommand_crc {p : Pending} {sel : Byte} (issuer : p.issuer = .rd16 sel ∨ p.issuer = .rd16s sel)
    (lo hi q : Byte) (s : State) :
    (finishCommand p (.ok [lo, hi, q]) s).crc = crc8 (readCoverage s.params p.req.addr sel lo hi) := by
  rcases issuer with e | e <;> simp only [finishCommand, e, finishRead_crc]

/-- A finish changes CRC only for an RD16 or RD16S answered with three bytes. -/
theorem finishCommand_crc_cases (p : Pending) (ans : Answer) (s : State) :
    (finishCommand p ans s).crc = s.crc ∨
      ∃ sel lo hi q, ans = .ok [lo, hi, q] ∧ (p.issuer = .rd16 sel ∨ p.issuer = .rd16s sel) := by
  unfold finishCommand
  split
  case h_1 sel e =>
    exact (finishRead_crc_cases false p.req.addr sel ans s).imp_right
      fun ⟨lo, hi, q, three⟩ => ⟨sel, lo, hi, q, three, .inl e⟩
  case h_2 sel e =>
    exact (finishRead_crc_cases true p.req.addr sel ans s).imp_right
      fun ⟨lo, hi, q, three⟩ => ⟨sel, lo, hi, q, three, .inr e⟩
  case h_3 => exact .inl (finishWrite_crc ans s)
  case h_4 => exact .inl (finishWrite_crc ans s)

/-- The bytes R131 says a read's checksum covers are the model's. -/
theorem readCovered_eq (p : Params) (a : BusAddr) (r lo hi : Byte) :
    readCovered p a r lo hi = readCoverage p a r lo hi := by
  simp only [readCovered, readCoverage, addrByte_or_one]
  rfl

/-- What an accept leaves in CRC depends on CRC and ADDR alone. -/
theorem crcAfterAccept_congr (i : Instr) {s u : State} (crc : u.crc = s.crc) (addr : u.addr = s.addr) :
    crcAfterAccept i u = crcAfterAccept i s := by
  cases i <;> simp only [crcAfterAccept, crc, addr]

/-- The commands whose accept can change CRC, each with what it writes. -/
theorem crcAfterAccept_cases (i : Instr) (s : State) :
    crcAfterAccept i s = s.crc ∨
      (i = .crcclr ∧ crcAfterAccept i s = 0x00#8) ∨
      (∃ b, i = .crcupd b ∧ crcAfterAccept i s = crc8Byte s.crc b) ∨
      (∃ r d, i = .wr16 r d ∧ crcAfterAccept i s = crc8 (writeCoverage s.addr r (lowByte d) (highByte d))) ∨
      (∃ c, i = .sendcmd c ∧ crcAfterAccept i s = crc8 (commandCoverage s.addr c)) := by
  cases i with
  | crcclr => exact .inr (.inl ⟨rfl, rfl⟩)
  | crcupd b => exact .inr (.inr (.inl ⟨b, rfl, rfl⟩))
  | wr16 r d => exact .inr (.inr (.inr (.inl ⟨r, d, rfl, rfl⟩)))
  | sendcmd c => exact .inr (.inr (.inr (.inr ⟨c, rfl, rfl⟩)))
  | _ => exact .inl rfl

/-- Settles O40: CRC after each accept and each read's finish, and no other writer but reset. -/
theorem onlyChecksumCommandsWriteCrc : Obligations.OnlyChecksumCommandsWriteCrc := by
  refine ⟨?readsZeroExtended, ?accept, ?finish, ?onlyWriters⟩
  case readsZeroExtended =>
    intro s
    constructor
    · exact BitVec.eq_of_getLsbD_eq fun k hk => by simp [readReg, hk, Nat.lt_of_lt_of_le hk (by decide : 8 ≤ 32)]
    · exact BitVec.eq_of_getLsbD_eq fun k hk => by simp [readReg]
  case accept =>
    intro s v i hw a hd
    obtain ⟨rest, hs⟩ := step_accepts hw a
    rw [acceptCommand_legal hd] at hs
    obtain ⟨t, ht⟩ := exec_answers_next i (((s.setInputs rest).respond .written).setCmd v)
    exact ⟨t, hs.trans ht, (exec_crc ht).trans (crcAfterAccept_congr i rfl rfl)⟩
  case finish =>
    intro s p sel lo hi q hw a issuer
    obtain ⟨rest, hs⟩ := step_answers hw a
    exact ⟨_, hs, by rw [finishCommand_crc issuer, readCovered_eq]; rfl⟩
  case onlyWriters =>
    intro s t h ne
    rcases step_registers h with ⟨v, rest, a, e⟩ | ⟨p, ans, rest, a, rfl⟩ | r | ⟨-, -, same, -⟩
    · rcases acceptCommand_cases e with ⟨i, hd, e⟩ | ⟨_, -, rfl⟩
      · have crc := exec_crc e
        have writers := crcAfterAccept_cases i (((s.setInputs rest).respond .written).setCmd v)
        rw [← crc] at writers
        exact .inl ⟨v, i, a, hd, writers.resolve_left ne⟩
      · exact absurd rfl ne
    · rcases finishCommand_crc_cases p ans (s.setInputs rest) with same | ⟨sel, lo, hi, q, rfl, issuer⟩
      · exact absurd same ne
      · exact .inr (.inl ⟨p, sel, lo, hi, q, a, issuer, finishCommand_crc issuer lo hi q _⟩)
    · exact .inr (.inr r)
    · exact absurd same ne

/-! ### Reset values (R37) -/

/-- Settles O34: each register of the window, the sequencing state and `irq_o`, at their reset values. -/
theorem resetValuesAreTheTables : Obligations.ResetValuesAreTheTables := by
  intro p
  have idle : (State.resetWith p).busy = false := (State.not_busy_iff _).2 (State.resetWith_phase p)
  have status : (State.resetWith p).statusWord = 0x00000000#32 := by simp [State.statusWord, idle]
  exact ⟨State.resetWith_cmd p, status, rfl, rfl, State.resetWith_result p, State.resetWith_phase p,
    State.resetWith_pending p, State.resetWith_done p⟩

end Sys2Proof.Machine
end

section
/-! The statements of the memory family (20_memory.md): the byte lanes of a register word, and the transfer requests.
The first follows from the lanes of a command word's fields; the second from the cases of one step (`step_moves`), of
which only an accept, TRANSPORT's answer and reset touch what is outstanding. -/

namespace Sys2Proof

/-! ### Byte lanes (R54) -/

/-- Byte lane `k` holds the bits of the word from `8k` up. -/
theorem getLsbD_lane (w : Word) (k : Nat) {j : Nat} (hj : j < 8) : (lane w k).getLsbD j = w.getLsbD (8 * k + j) := by
  simp [lane, hj]

theorem lanes_getD (w : Word) {k : Nat} (hk : k < 4) : (lanes w).getD k 0#8 = lane w k := by
  interval_cases k <;> rfl

/-- Lane 0 of a command word is RSVD over OP. -/
theorem lane_commandWord_zero (d : Half) (sel : Byte) (r o : BitVec 4) : lane (commandWord d sel r o) 0 = r ++ o :=
  BitVec.eq_of_getLsbD_eq fun j hj => by
    rw [getLsbD_lane _ _ hj, getLsbD_commandWord, BitVec.getLsbD_append]
    simp [hj]

/-- Lane 1 of a command word is SEL. -/
theorem lane_commandWord_one (d : Half) (sel : Byte) (r o : BitVec 4) : lane (commandWord d sel r o) 1 = sel :=
  selField_commandWord d sel r o

/-- Lanes 2 and 3 of a command word are the bytes of DATA, low first. -/
theorem lane_commandWord_data (d : Half) (sel : Byte) (r o : BitVec 4) {k : Nat} (hk : k < 2) :
    lane (commandWord d sel r o) (2 + k) = d.extractLsb' (8 * k) 8 :=
  BitVec.eq_of_getLsbD_eq fun j hj => by
    rw [getLsbD_lane _ _ hj, getLsbD_commandWord, if_neg (by omega), if_neg (by omega), if_neg (by omega),
      show 8 * (2 + k) + j - 16 = 8 * k + j by omega]
    simp [hj]

/-- The lanes of a command word: OP/RSVD, SEL, and DATA low byte first. -/
theorem lanes_commandWord (d : Half) (sel : Byte) (r o : BitVec 4) :
    lanes (commandWord d sel r o) = [r ++ o, sel, d.extractLsb' 0 8, d.extractLsb' 8 8] := by
  rw [lanes, lane_commandWord_zero, lane_commandWord_one,
    lane_commandWord_data d sel r o (k := 0) (by decide), lane_commandWord_data d sel r o (k := 1) (by decide)]

end Sys2Proof

namespace Sys2Proof.Machine

/-- Settles O6, by the lanes of a word and of a command word (`lanes_commandWord`). -/
theorem hostLanesAreLittleEndian : Obligations.HostLanesAreLittleEndian := by
  refine ⟨fun w k j hk hj => ?bits, lanes_commandWord, fun a d sel r o => ?busOrder, decodeBytes_lanes⟩
  case bits => rw [lanes_getD w hk, getLsbD_lane w k hj]
  case busOrder =>
    rw [lanes_commandWord]
    rfl

/-! ### The outstanding request (R31, R64) -/

/-- The bus commands (R85). -/
theorem requestOf_ne_none_iff (i : Instr) (a : BusAddr) : requestOf i a ≠ none ↔
    (∃ r, i = .rd16 r) ∨ (∃ r, i = .rd16s r) ∨ (∃ r v, i = .wr16 r v) ∨ ∃ c, i = .sendcmd c := by
  cases i <;> simp [requestOf]

/-- What the accept of a word leaves of the sequencing state: completed where the word spells no command that issues a
request, else waiting for the request it issues (R31, R161, R172). -/
theorem acceptCommand_request {v : Word} {s t : State} (h : acceptCommand v s = .next t) :
    ((∀ i, decode v = .legal i → requestOf i s.addr = none) ∧
        t.phase = .idle ∧ t.pending = none ∧ t.done = true) ∨
      ∃ i p, decode v = .legal i ∧ requestOf i s.addr = some p ∧
        t.phase = .waitBus ∧ t.pending = some p ∧ t.done = false := by
  rcases acceptCommand_cases h with ⟨i, hd, e⟩ | ⟨why, hd, rfl⟩
  · rcases exec_request e with ⟨none_, after⟩ | ⟨p, some_, after⟩
    · exact .inl ⟨fun j hj => by cases hd.symm.trans hj; exact none_, after⟩
    · exact .inr ⟨i, p, hd, some_, after⟩
  · exact .inl ⟨fun j hj => (nomatch hd.symm.trans hj), rfl, rfl, rfl⟩

/-- A step that accepts no command, takes no answer and is no reset leaves PHASE and PENDING as they were; an answer and
a reset leave the block idle with nothing outstanding (R31, R32, R201). -/
theorem step_sequencing {s t : State} (h : step s = .next t) :
    (∃ v rest, s.accepts v ∧ acceptCommand v ((s.setInputs rest).respond .written) = .next t) ∨
      (((∃ p ans, s.answers p ans) ∨ s.resets) ∧ t.phase = .idle ∧ t.pending = none) ∨
      (t.phase = s.phase ∧ t.pending = s.pending) := by
  cases step_moves h with
  | accept v rest a e => exact .inl ⟨v, rest, a, e⟩
  | answer p ans rest a e =>
    obtain ⟨⟨phase, pending, -⟩, -⟩ := finishCommand_keeps p ans (s.setInputs rest)
    subst e
    exact .inr (.inl ⟨.inl ⟨p, ans, a⟩, phase, pending⟩)
  | reset _ _ a e => subst e; exact .inr (.inl ⟨.inr a, rfl, rfl⟩)
  | still _ e | port _ _ _ e | drop _ _ _ e | status _ _ _ e | late _ _ e | noReset _ e =>
    subst e
    exact .inr (.inr ⟨rfl, rfl⟩)

/-- The accept of a CMD write as a step, with what it leaves of the sequencing state. -/
theorem step_accepts_request {s : State} {v : Word} (hw : s.params.wf = true) (a : s.accepts v) :
    ∃ t, step s = .next t ∧
      (((∀ i, decode v = .legal i → requestOf i s.addr = none) ∧
          t.phase = .idle ∧ t.pending = none ∧ t.done = true) ∨
        ∃ i p, decode v = .legal i ∧ requestOf i s.addr = some p ∧
          t.phase = .waitBus ∧ t.pending = some p ∧ t.done = false) := by
  obtain ⟨rest, hs⟩ := step_accepts hw a
  obtain ⟨t, ht⟩ := acceptCommand_answers_next v ((s.setInputs rest).respond .written)
  have sequencing := acceptCommand_request ht
  exact ⟨t, hs.trans ht, sequencing⟩

/-- A step after which a request is newly outstanding accepts a word whose command issues it. -/
theorem accepts_of_new_request {s t : State} {p : Pending} (h : step s = .next t) (before : s.pending = none)
    (after : t.pending = some p) : ∃ v i, s.accepts v ∧ decode v = .legal i ∧ requestOf i s.addr = some p := by
  rcases step_sequencing h with ⟨v, rest, a, e⟩ | ⟨-, -, ended⟩ | ⟨-, same⟩
  · rcases acceptCommand_request e with ⟨-, -, ended, -⟩ | ⟨i, q, hd, issued, -, new, -⟩
    · simp [ended] at after
    · cases new.symm.trans after
      exact ⟨v, i, a, hd, issued⟩
  · simp [ended] at after
  · simp [same, before] at after

/-- An accept finds nothing outstanding, since the block is idle (R23, R32). -/
theorem State.Inv.pending_of_accepts {s : State} {v : Word} (inv : s.Inv) (a : s.accepts v) : s.pending = none := by
  obtain ⟨-, idle, -⟩ := a
  have notWaiting : ¬s.phase = .waitBus := by simp [idle]
  simpa using mt inv.waiting_iff.2 notWaiting

/-- Settles O42: what an accept issues (`step_accepts_request`), and what else can touch the outstanding request
(`step_sequencing`). -/
theorem oneRequestPerCommandAndNoRetry : Obligations.OneRequestPerCommandAndNoRetry := by
  refine ⟨requestOf_ne_none_iff, fun s v i p hw a hd hp => ?issues, fun s v hw a noRequest => ?issuesNone,
    fun s t h => ⟨fun p => accepts_of_new_request h, fun p inv outstanding => ?kept, fun p ans a => ?answered⟩⟩
  case issues =>
    obtain ⟨t, hs, ⟨noRequest, -⟩ | ⟨j, q, hj, hq, phase, pending, -⟩⟩ := step_accepts_request hw a
    · simp [noRequest i hd] at hp
    · cases hd.symm.trans hj
      exact ⟨t, hs, pending.trans (hq.symm.trans hp), phase⟩
  case issuesNone =>
    obtain ⟨t, hs, ⟨-, phase, pending, -⟩ | ⟨i, p, hd, hp, -⟩⟩ := step_accepts_request hw a
    · exact ⟨t, hs, pending, phase⟩
    · simp [noRequest i hd] at hp
  case kept =>
    rcases step_sequencing h with ⟨v, rest, a, -⟩ | ⟨⟨q, ans, a⟩ | r, -, ended⟩ | ⟨-, same⟩
    · simp [inv.pending_of_accepts a] at outstanding
    · have ⟨_, held, _⟩ := a
      cases held.symm.trans outstanding
      exact .inr ⟨ended, .inl ⟨ans, a⟩⟩
    · exact .inr ⟨ended, .inr r⟩
    · exact .inl (same.trans outstanding)
  case answered =>
    obtain ⟨wf, -⟩ := step_cases h
    obtain ⟨rest, hs⟩ := step_answers wf a
    cases hs.symm.trans h
    obtain ⟨⟨phase, pending, -⟩, -⟩ := finishCommand_keeps p ans (s.setInputs rest)
    exact ⟨pending, phase⟩

end Sys2Proof.Machine
end

section
/-! Unused fields (30_encoding.md rule R86). The decoder answers a command exactly on the words that agree with the
command's own encoding on the bits it uses, and no command reads the word in CMD. -/

namespace Sys2Proof

/-- A masked word is a command word exactly when its masked fields are that word's fields. -/
theorem and_eq_commandWord_iff {w m : Word} {d : Half} {s : Byte} {r o : BitVec 4} :
    w &&& m = commandWord d s r o ↔ dataField w &&& dataField m = d ∧ selField w &&& selField m = s ∧
      rsvdField w &&& rsvdField m = r ∧ opField w &&& opField m = o := by
  rw [← commandWord_inj, ← commandWord_and, commandWord_fields, commandWord_fields]

end Sys2Proof

namespace Sys2Proof.Machine

/-- Every command uses all of RSVD (R87). -/
theorem rsvdField_usedMask (i : Instr) : rsvdField (usedMask i) = BitVec.allOnes 4 := by cases i <;> rw [usedMask] <;> rfl

/-- Every command uses all of OP (R82). -/
theorem opField_usedMask (i : Instr) : opField (usedMask i) = BitVec.allOnes 4 := by cases i <;> rw [usedMask] <;> rfl

/-- With RSVD = 0 and the OP of `i`, a word spells `i` exactly when the fields `i` uses hold its operands (R85). -/
theorem decode_eq_legal_iff_operands {w : Word} {i : Instr} (hr : rsvdField w = 0#4) (ho : opField w = opcodeOf i) :
    decode w = .legal i ↔
      dataField w &&& dataField (usedMask i) = dataOf i ∧ selField w &&& selField (usedMask i) = selOf i := by
  rw [decode_op hr, ho]
  cases i with
  | nop | crcclr => exact iff_of_true rfl ⟨BitVec.and_zero, BitVec.and_zero⟩
  | wr16 r v =>
    have data : dataField 0xFFFFFFFF#32 = BitVec.allOnes 16 := rfl
    have sel : selField 0xFFFFFFFF#32 = BitVec.allOnes 8 := rfl
    rw [usedMask, data, sel, BitVec.and_allOnes, BitVec.and_allOnes]
    simp [opcodeOf, dataOf, selOf, and_comm]
  | crcupd x | crcchk x | setaddr x | rd16 x | rd16s x | sendcmd x =>
    have data : dataField 0x0000FFFF#32 = 0#16 := rfl
    have sel : selField 0x0000FFFF#32 = BitVec.allOnes 8 := rfl
    rw [usedMask, data, sel, BitVec.and_zero, BitVec.and_allOnes]
    simp [opcodeOf, dataOf, selOf]

/-- A word spells a command exactly when it agrees with the command's encoding on the bits the command uses (R86,
R88). -/
theorem decode_eq_legal_iff {w : Word} {i : Instr} : decode w = .legal i ↔ w &&& usedMask i = encode i := by
  rw [encode, and_eq_commandWord_iff, rsvdField_usedMask, opField_usedMask, BitVec.and_allOnes, BitVec.and_allOnes]
  constructor
  · intro h
    obtain ⟨hr, ho⟩ := decode_legal h
    obtain ⟨data, sel⟩ := (decode_eq_legal_iff_operands hr ho).1 h
    exact ⟨data, sel, hr, ho⟩
  · rintro ⟨data, sel, hr, ho⟩
    exact (decode_eq_legal_iff_operands hr ho).2 ⟨data, sel⟩

/-- Of two words stored in CMD the second stays (R23). -/
theorem State.setCmd_setCmd (s : State) (v w : Word) : (s.setCmd v).setCmd w = s.setCmd w := rfl

/-- No command reads CMD: what CMD holds before the command's meaning runs, it holds after, and nothing else differs. -/
theorem exec_setCmd {i : Instr} {s t : State} (v : Word) (h : exec i s = .next t) :
    exec i (s.setCmd v) = .next (t.setCmd v) := by
  cases i with
  | setaddr a =>
    cases h
    rw [apply_ite (State.setCmd v)]
    rfl
  | _ => cases h; rfl

/-- Two words that spell the same command have the same accept, but for the word CMD keeps. -/
theorem acceptCommand_congr {w w' : Word} {i : Instr} {s t : State} (hd : decode w = .legal i)
    (hd' : decode w' = .legal i) (h : acceptCommand w s = .next t) : acceptCommand w' s = .next (t.setCmd w') := by
  rw [acceptCommand_legal hd] at h
  rw [acceptCommand_legal hd', ← s.setCmd_setCmd w w']
  exact exec_setCmd w' h

/-- Settles O3, by the words the decoder answers a command on (`decode_eq_legal_iff`) and the accept of two words that
spell the same command (`acceptCommand_congr`). -/
theorem unusedFieldsAreIgnored : Obligations.UnusedFieldsAreIgnored := by
  intro w w' i hd agree
  have hd' : decode w' = .legal i := decode_eq_legal_iff.2 (agree.symm.trans (decode_eq_legal_iff.1 hd))
  exact ⟨hd', fun s t => acceptCommand_congr hd hd'⟩

end Sys2Proof.Machine
end

section
/-! The statements of the checksum family (40_crc.md) about the shift register, CRCCLR and CRCCHK. The model's loop is
the rule's turn iterated; each of the two commands completes in its accept, so at an idle block it changes only CRC,
DONE and ERR. -/

namespace Sys2Proof.Machine

/-! ### The shift register (R100, R101) -/

/-- One turn tests bit 7, the most significant bit (R100). -/
theorem crcShift_eq (c : Byte) : crcShift c = if c.getLsbD 7 then (c <<< 1) ^^^ 0x07#8 else c <<< 1 := by
  rw [crcShift, BitVec.msb_eq_getLsbD_last]
  rfl

/-- The model's loop is the turn iterated. -/
theorem crcShifts_eq_iterate (n : Nat) (c : Byte) : crcShifts n c = crcShift^[n] c := by
  induction n generalizing c with
  | zero => rfl
  | succ n ih => exact ih (crcShift c)

/-- Settles O7: the turn (`crcShift_eq`), the loop (`crcShifts_eq_iterate`) and the fold (`crc8_concat`). -/
theorem crcIsTheShiftRegister : Obligations.CrcIsTheShiftRegister := by
  refine ⟨fun c b => ?loop, crc8_nil, crc8_concat⟩
  case loop => rw [crc8Byte_eq, crcShifts_eq_iterate, funext crcShift_eq]

/-! ### Completion at the accept (R172) -/

/-- At an idle block with nothing outstanding, `complete` records the outcome and changes nothing else. -/
theorem State.complete_of_idle {s : State} (idle : s.phase = .idle) (noRequest : s.pending = none) (e : ErrCode) :
    s.complete e = { s with done := true, err := e.code } := by
  rw [State.complete, ← idle, ← noRequest]

/-- A command that answers a next state hands it to the commands after it. -/
theorem execAll_cons {i : Instr} {s t : State} (h : exec i s = .next t) (rest : List Instr) :
    execAll (i :: rest) s = execAll rest t := by
  rw [execAll, h]

/-! ### CRCCLR (R110) -/

/-- The words of CRCCLR (R85): SEL and DATA are not looked at. -/
theorem decode_commandWord_crcclr (d : Half) (sel : Byte) :
    decode (commandWord d sel 0x0#4 0x1#4) = .legal .crcclr := by
  rw [decode_op (rsvdField_commandWord d sel _ _), opField_commandWord]
  rfl

theorem exec_crcclr (s : State) : exec .crcclr s = .next ((s.beginCommand.setCrc 0x00#8).complete .ok) := rfl

/-- A second CRCCLR changes nothing more. -/
theorem execAll_crcclr_crcclr (s : State) : execAll [.crcclr, .crcclr] s = execAll [.crcclr] s := by
  rw [execAll_cons (exec_crcclr s), execAll_cons (exec_crcclr s), execAll_cons (exec_crcclr _)]
  rfl

/-- An illegal word records ILLEGAL_CMD and leaves CRC (R161). -/
theorem acceptCommand_illegal_err_crc {v : Word} {why : Illegal} {s t : State} (illegal : decode v = .illegal why)
    (h : acceptCommand v s = .next t) : t.err = 4#4 ∧ t.crc = s.crc := by
  rw [acceptCommand_illegal illegal] at h
  cases h
  exact ⟨rfl, rfl⟩

/-- Settles O14, by the whole state CRCCLR leaves (`exec_crcclr`) and what an illegal word does. -/
theorem crcclrClearsTheAccumulator : Obligations.CrcclrClearsTheAccumulator := by
  refine ⟨decode_commandWord_crcclr, fun s idle noRequest => ?clears, execAll_crcclr_crcclr,
    fun d sel r s t reserved h => ?illegalKeeps⟩
  case clears =>
    rw [exec_crcclr, State.complete_of_idle (s := s.beginCommand.setCrc 0x00#8) idle noRequest]
    rfl
  case illegalKeeps =>
    have rsvd : rsvdField (commandWord d sel r 0x1#4) ≠ 0#4 := by rwa [rsvdField_commandWord]
    exact acceptCommand_illegal_err_crc (decode_rsvd rsvd) h

/-! ### CRCCHK (R112) -/

/-- The words of CRCCHK (R85): the operand is SEL, and DATA is not looked at. -/
theorem decode_commandWord_crcchk (d : Half) (p : Byte) :
    decode (commandWord d p 0x0#4 0x3#4) = .legal (.crcchk p) := by
  rw [decode_op (rsvdField_commandWord d p _ _), opField_commandWord, selField_commandWord]
  rfl

theorem exec_crcchk (p : Byte) (s : State) :
    exec (.crcchk p) s = .next (s.beginCommand.complete (if s.crc = p then .ok else .checksum)) := rfl

/-- The code a check of CRC against `p` records. -/
theorem code_of_check (c p : Byte) :
    (if c = p then ErrCode.ok else ErrCode.checksum).code = if c = p then 0#4 else 2#4 :=
  apply_ite ErrCode.code _ _ _

/-- Settles O16, by the whole state CRCCHK leaves (`exec_crcchk`), after CRCCLR at CRC = 0x00. -/
theorem crcchkComparesTheAccumulator : Obligations.CrcchkComparesTheAccumulator := by
  refine ⟨decode_commandWord_crcchk, fun p s idle noRequest => ?compares, fun s t _ _ h => ?afterClear⟩
  case compares =>
    rw [exec_crcchk, State.complete_of_idle (s := s.beginCommand) idle noRequest, code_of_check]
    rfl
  case afterClear =>
    have cleared : ((s.beginCommand.setCrc 0x00#8).complete .ok).crc = 0x00#8 := rfl
    rw [execAll_cons (exec_crcclr s), execAll_cons (exec_crcchk _ _), if_pos cleared] at h
    cases h
    rfl

end Sys2Proof.Machine
end

section
/-! The statements of the framer family (41_framer.md): SETADDR, RD16, WR16, SENDCMD and the read's finish. Each accept
is a whole next state, and each finish of the model is the whole next state its rule writes out. -/

namespace Sys2Proof.Machine

/-! ### The words of the frame commands (R85, R86) -/

/-- A command whose one operand is SEL is spelled by every word with its OP, RSVD = 0 and that SEL; DATA is not looked
at. -/
theorem decode_commandWord_of_selOnly (d : Half) {i : Instr} (uses : usedMask i = 0x0000FFFF#32) :
    decode (commandWord d (selOf i) 0x0#4 (opcodeOf i)) = .legal i := by
  have noData : dataOf i = 0#16 := by
    cases i with
    | wr16 r v => exact absurd uses (by decide : (0xFFFFFFFF#32 : Word) ≠ 0x0000FFFF#32)
    | _ => rfl
  have dataMask : dataField 0x0000FFFF#32 = 0#16 := rfl
  have selMask : selField 0x0000FFFF#32 = BitVec.allOnes 8 := rfl
  rw [decode_eq_legal_iff_operands (rsvdField_commandWord ..) (opField_commandWord ..), uses, dataMask, selMask,
    BitVec.and_zero, selField_commandWord, BitVec.and_allOnes]
  exact ⟨noData.symm, rfl⟩

/-- The words of WR16 are the encoded ones, since it uses every field (R85). -/
theorem decode_commandWord_wr16 (r : Byte) (v : Half) : decode (commandWord v r 0x0#4 0x7#4) = .legal (.wr16 r v) :=
  decode_eq_legal_iff.2 BitVec.and_allOnes

/-! ### The finish steps as whole next states (R141, R150) -/

/-- The model's read finish is R141's, for either extension. -/
theorem finishRead_eq_readFinished (signed : Bool) (a : BusAddr) (r : Byte) (ans : Answer) (s : State) :
    finishRead signed a r ans s =
      readFinished (if signed then BitVec.signExtend 32 else BitVec.zeroExtend 32) a r ans s :=
  match ans with
  | .err | .ok [] | .ok [_] | .ok [_, _] | .ok (_ :: _ :: _ :: _ :: _) => rfl
  | .ok [lo, hi, p] => by
    simp only [finishRead, readFinished, readCovered_eq]
    by_cases matched : crc8 (readCoverage s.params a r lo hi) = p
    · rw [if_neg (not_not.2 matched), if_pos matched]
      cases signed <;> rfl
    · rw [if_pos matched, if_neg matched]
      rfl

/-- The model's write and command finish is R150's. -/
theorem finishWrite_eq_writeFinished (ans : Answer) (s : State) : finishWrite ans s = writeFinished ans s := by
  rcases finishWrite_cases ans s with ⟨empty, e⟩ | ⟨other, e⟩
  · rw [e, writeFinished, if_pos empty]
    rfl
  · rw [e, writeFinished, if_neg other]
    rfl

/-- The finish of an RD16 takes address and selector from what was captured at its accept. -/
theorem finishCommand_rd16 (a : BusAddr) (r : Byte) (ans : Answer) (s : State) :
    finishCommand (readFrame a r (.rd16 r)) ans s = readFinished (BitVec.zeroExtend 32) a r ans s :=
  finishRead_eq_readFinished false a r ans s

/-- The same for an RD16S, which extends the sign. -/
theorem finishCommand_rd16s (a : BusAddr) (r : Byte) (ans : Answer) (s : State) :
    finishCommand (readFrame a r (.rd16s r)) ans s = readFinished (BitVec.signExtend 32) a r ans s :=
  finishRead_eq_readFinished true a r ans s

/-- The answer to a request just issued finishes the command that issued it (R62, R70). -/
theorem blockAnswer_issue (p : Pending) (ans : Answer) (s : State) :
    blockAnswer ans (s.issue p) = .next (finishCommand p ans (s.issue p)) := rfl

/-- Settles O20, by the step that takes an answer (`step_answer`) and the read finish as R141's. -/
theorem readFinishChecksTheChecksum : Obligations.ReadFinishChecksTheChecksum := by
  intro s a r ans rest wf waiting next
  constructor
  · intro outstanding
    exact (step_answer wf waiting outstanding next).trans (congrArg _ (finishCommand_rd16 a r ans _))
  · intro outstanding
    exact (step_answer wf waiting outstanding next).trans (congrArg _ (finishCommand_rd16s a r ans _))

/-! ### RD16 (R140) -/

/-- Settles O18, by the request the accept leaves outstanding and the read finish on its answer. -/
theorem rd16ReadsZeroExtended : Obligations.Rd16ReadsZeroExtended := by
  refine ⟨fun d r => decode_commandWord_of_selOnly d (i := .rd16 r) rfl,
    fun r s _ _ => ⟨_, rfl, rfl, fun ans => ?finish⟩⟩
  case finish => exact (blockAnswer_issue _ ans _).trans (congrArg _ (finishCommand_rd16 s.addr r ans _))

/-! ### WR16 and SENDCMD (R150, R155) -/

/-- Settles O21, by the frame the accept leaves outstanding and the write finish on its answer. -/
theorem wr16SendsTheFrame : Obligations.Wr16SendsTheFrame := by
  refine ⟨decode_commandWord_wr16,
    fun r v s _ _ => ⟨_, _, _, _, rfl, rfl, rfl, rfl, rfl, fun ans => ?finish⟩, by decide +kernel⟩
  case finish => exact (blockAnswer_issue _ ans _).trans (congrArg _ (finishWrite_eq_writeFinished ans _))

/-- Settles O22, by the frame the accept leaves outstanding and the write finish on its answer. -/
theorem sendcmdSendsTheFrame : Obligations.SendcmdSendsTheFrame := by
  refine ⟨fun d c => decode_commandWord_of_selOnly d (i := .sendcmd c) rfl,
    fun c s _ _ => ⟨_, _, rfl, rfl, rfl, fun ans => ?finish⟩, by decide +kernel⟩
  case finish => exact (blockAnswer_issue _ ans _).trans (congrArg _ (finishWrite_eq_writeFinished ans _))

/-! ### SETADDR (R133, R134) -/

/-- R133's three conditions. -/
theorem validAddr_iff {p : Params} {a : Byte} :
    validAddr p a = true ↔ a ≠ 0x00#8 ∧ a.toNat ≤ 0x7F ∧ a.extractLsb' 0 7 ∉ p.reserved := by
  simp [validAddr, candidateAddr, and_assoc]

/-- A candidate with bit 7 set is no bus address, whatever its low bits. -/
theorem validAddr_of_high {p : Params} {a : Byte} (high : 0x7F < a.toNat) : validAddr p a = false := by
  rw [Bool.eq_false_iff, ne_eq, validAddr_iff]
  rintro ⟨-, low, -⟩
  omega

/-- The candidate with bit 7 clear and `a` below it loads `a`. -/
theorem candidateAddr_append (a : BusAddr) : candidateAddr (0#1 ++ a) = a := BitVec.extractLsb'_append_eq_right

/-- SETADDR of a valid candidate at an idle block. -/
theorem exec_setaddr_valid {a : Byte} {s : State} (idle : s.phase = .idle) (noRequest : s.pending = none)
    (valid : validAddr s.params a = true) :
    exec (.setaddr a) s = .next { s with addr := candidateAddr a, done := true, err := 0#4 } := by
  rw [exec, execSetaddr, if_pos valid,
    State.complete_of_idle (s := s.beginCommand.setAddr (candidateAddr a)) idle noRequest]
  rfl

/-- SETADDR of an invalid candidate at an idle block. -/
theorem exec_setaddr_invalid {a : Byte} {s : State} (idle : s.phase = .idle) (noRequest : s.pending = none)
    (invalid : ¬validAddr s.params a = true) : exec (.setaddr a) s = .next { s with done := true, err := 3#4 } := by
  rw [exec, execSetaddr, if_neg invalid, State.complete_of_idle (s := s.beginCommand) idle noRequest]
  rfl

/-- Settles O17, by R133's conditions (`validAddr_iff`) and the whole state SETADDR leaves in either case. -/
theorem setaddrLoadsOnlyValidAddresses : Obligations.SetaddrLoadsOnlyValidAddresses := by
  refine ⟨fun d a => decode_commandWord_of_selOnly d (i := .setaddr a) rfl, fun a s idle noRequest => ?loads,
    fun s idle noRequest valid => ?same,
    fun p => ⟨validAddr_of_high (by decide), validAddr_of_high (by decide)⟩⟩
  case loads =>
    by_cases valid : validAddr s.params a = true
    · rw [exec_setaddr_valid idle noRequest valid, if_pos (validAddr_iff.1 valid)]
      rfl
    · rw [exec_setaddr_invalid idle noRequest valid, if_neg (mt validAddr_iff.2 valid)]
  case same => rw [exec_setaddr_valid idle noRequest valid, candidateAddr_append]

end Sys2Proof.Machine
end

section
/-! The statements of the control family (42_control.md): NOP and the illegal words. Each completes in its accept, so
the words that reach it and the whole state it leaves are all there is to say. -/

namespace Sys2Proof

/-! ### The illegal words (R87) -/

/-- A word spells no command exactly when RSVD is not 0 or OP is past the last row of R85. -/
theorem decode_illegal_iff {w : Word} :
    (∃ why, decode w = .illegal why) ↔ rsvdField w ≠ 0#4 ∨ 9 ≤ (opField w).toNat := by
  by_cases hr : rsvdField w = 0#4
  case neg => exact iff_of_true ⟨_, decode_rsvd hr⟩ (.inl hr)
  case pos =>
    rw [decode_op hr, or_iff_right (not_not.2 hr)]
    match (opField w).toNat with
    | 0 | 1 | 2 | 3 | 4 | 5 | 6 | 7 | 8 => exact iff_of_false nofun (by decide)
    | n + 9 => exact iff_of_true ⟨_, rfl⟩ (Nat.le_add_left 9 n)

/-- The mask of bits 7:4 leaves RSVD (R80). -/
theorem and_rsvdMask_eq_zero_iff {w : Word} : w &&& 0x000000F0#32 = 0#32 ↔ rsvdField w = 0#4 := by
  have zero : 0#32 = commandWord 0#16 0#8 0#4 0#4 := rfl
  have data : dataField 0x000000F0#32 = 0#16 := rfl
  have sel : selField 0x000000F0#32 = 0#8 := rfl
  have rsvd : rsvdField 0x000000F0#32 = BitVec.allOnes 4 := rfl
  have op : opField 0x000000F0#32 = 0#4 := rfl
  rw [zero, and_eq_commandWord_iff, data, sel, rsvd, op, BitVec.and_allOnes]
  simp

/-- The mask of bits 3:0 leaves OP (R80). -/
theorem and_opMask_toNat (w : Word) : (w &&& 0x0000000F#32).toNat = (opField w).toNat := by
  rw [BitVec.toNat_and, opField, BitVec.extractLsb'_toNat, Nat.shiftRight_zero]
  exact Nat.and_two_pow_sub_one_eq_mod w.toNat 4

end Sys2Proof

namespace Sys2Proof.Machine

/-! ### What an illegal word does (R161) -/

/-- The accept of an illegal word at an idle block, as a whole next state. -/
theorem acceptCommand_illegal_of_idle {v : Word} {why : Illegal} {s : State} (illegal : decode v = .illegal why)
    (idle : s.phase = .idle) (noRequest : s.pending = none) :
    acceptCommand v s = .next { s with cmd := v, done := true, err := 4#4 } := by
  rw [acceptCommand_illegal illegal, illegalCommand,
    State.complete_of_idle (s := (s.setCmd v).beginCommand) idle noRequest]
  rfl

/-- Settles O4: the illegal words by their fields (`decode_illegal_iff`), and the accept of one as a step. -/
theorem illegalWordsOnlyRecordIllegalCmd : Obligations.IllegalWordsOnlyRecordIllegalCmd := by
  refine ⟨fun v => ?words, fun s v rest ⟨wf, running, idle, noRequest⟩ next ⟨why, illegal⟩ => ?records⟩
  case words => rw [decode_illegal_iff, ne_eq (_ &&& _), and_rsvdMask_eq_zero_iff, and_opMask_toNat]
  case records =>
    refine ⟨.written, nofun, (step_cmd_write wf running idle next).trans ?_⟩
    exact acceptCommand_illegal_of_idle (s := (s.setInputs rest).respond .written) illegal idle noRequest

/-! ### NOP (R160) -/

/-- The words of NOP (R85): SEL and DATA are not looked at. -/
theorem decode_commandWord_nop (d : Half) (sel : Byte) : decode (commandWord d sel 0x0#4 0x0#4) = .legal .nop :=
  (decode_eq_legal_iff_operands (i := .nop) (rsvdField_commandWord ..) (opField_commandWord ..)).2
    ⟨BitVec.and_zero, BitVec.and_zero⟩

theorem exec_nop (s : State) : exec .nop s = .next (s.beginCommand.complete .ok) := rfl

/-- Settles O13, by the words of NOP and the whole state its completion leaves (`exec_nop`). -/
theorem nopCompletesWithNoEffect : Obligations.NopCompletesWithNoEffect := by
  refine ⟨decode_commandWord_nop, fun s idle noRequest => ?completes⟩
  case completes =>
    rw [exec_nop, State.complete_of_idle (s := s.beginCommand) idle noRequest]
    rfl

end Sys2Proof.Machine
end

section
/-! The statement of the outcome family (60_exceptions.md) on `irq_o`: the level of STATUS.DONE. Each move's effect on
the level is said once (`step_irq`); what raises it and what lowers it are then the cases of that lemma. -/

namespace Sys2Proof.Machine

/-! ### The level (R175) -/

/-- `irq_o` is the DONE bit of the STATUS word. -/
theorem State.irq_eq_statusWord (s : State) : s.irq = s.statusWord.getLsbD 1 := (s.getLsbD_statusWord 1).symm

/-- A STATUS write keeps the level unless bit 1 is set (R26). -/
theorem State.irq_clearStatus (v : Word) (s : State) : (s.clearStatus v).irq = (s.irq && !v.getLsbD 1) := rfl

/-- What a step does to `irq_o`: a completion raises it; an accept that waits, and reset, lower it; a STATUS write
clears it by bit 1; any other step leaves it (R175, R176). -/
theorem step_irq {s t : State} (h : step s = .next t) :
    (((∃ v, s.accepts v) ∨ ∃ p ans, s.answers p ans) ∧ t.phase = .idle ∧ t.pending = none ∧ t.irq = true) ∨
      (((∃ v, s.accepts v ∧ t.phase = .waitBus) ∨ s.resets) ∧ t.irq = false) ∨
      (∃ v, s.writesStatus v ∧ t.irq = (s.irq && !v.getLsbD 1)) ∨
      t.irq = s.irq := by
  cases step_moves h with
  | accept v rest a e =>
    rcases acceptCommand_request e with ⟨-, phase, pending, done⟩ | ⟨i, p, -, -, phase, -, done⟩
    · exact .inl ⟨.inl ⟨v, a⟩, phase, pending, done⟩
    · exact .inr (.inl ⟨.inl ⟨v, a, phase⟩, done⟩)
  | answer p ans rest a e =>
    obtain ⟨completed, -⟩ := finishCommand_keeps p ans (s.setInputs rest)
    subst e
    exact .inl ⟨.inr ⟨p, ans, a⟩, completed⟩
  | reset _ _ a e => subst e; exact .inr (.inl ⟨.inr a, rfl⟩)
  | status v _ a e => subst e; exact .inr (.inr (.inl ⟨v, a, State.irq_clearStatus v _⟩))
  | still _ e | port _ _ _ e | drop _ _ _ e | late _ _ e | noReset _ e =>
    subst e
    exact .inr (.inr (.inr rfl))

/-! ### Rise and fall (R176) -/

/-- Settles O45: the level after an accept, an answer, a clear and a reset by the step each of them is, and what can
raise or lower it by the cases of any step (`step_irq`). -/
theorem irqRisesOnlyAtCompletion : Obligations.IrqRisesOnlyAtCompletion := by
  refine ⟨State.irq_eq_statusWord, fun s v wf a => ?accept, fun s p ans wf a => ?answer,
    fun s v wf ⟨running, rest, next⟩ bit => ?clear, fun s wf r => ?reset, fun s t h low high => ?rise,
    fun s t h high low => ?fall⟩
  case accept =>
    obtain ⟨t, hs, ⟨noRequest, -, -, done⟩ | ⟨i, p, hd, issued, -, -, notDone⟩⟩ := step_accepts_request wf a
    · exact ⟨t, hs, iff_of_true done noRequest⟩
    · refine ⟨t, hs, iff_of_false (ne_true_of_eq_false notDone) fun noRequest => ?_⟩
      simp [noRequest i hd] at issued
  case answer =>
    obtain ⟨rest, hs⟩ := step_answers wf a
    obtain ⟨⟨-, -, done⟩, -⟩ := finishCommand_keeps p ans (s.setInputs rest)
    exact ⟨_, hs, done⟩
  case clear => exact ⟨_, step_status_write wf running next, by simp [State.irq_clearStatus, bit]⟩
  case reset =>
    obtain ⟨level, rest, hs⟩ := step_resets wf r
    exact ⟨_, hs, State.hardReset_done _ level⟩
  case rise =>
    rcases step_irq h with ⟨move, phase, pending, -⟩ | ⟨-, lowered⟩ | ⟨v, -, e⟩ | same
    · exact ⟨move, phase, pending⟩
    · simp [lowered] at high
    · simp [e, low] at high
    · simp [same, low] at high
  case fall =>
    rcases step_irq h with ⟨-, -, -, raised⟩ | ⟨move, -⟩ | ⟨v, w, e⟩ | same
    · simp [raised] at low
    · exact .inr move
    · exact .inl ⟨v, w, by simpa [e, high] using low⟩
    · simp [same, high] at low

end Sys2Proof.Machine
end

section
/-! The statement of the reset family (70_reset_and_hazards.md): what a step is under `rst_i`, with no move to come,
and for parameters that are not well formed. Each kind of step has its equation, and the statement lists them. -/

namespace Sys2Proof.Machine

/-! ### Under `rst_i` (R200) -/

/-- The state reset leaves, with the reset values of R37 written as `State.resetWith`. -/
theorem State.hardReset_eq (level : Bool) (s : State) :
    s.hardReset level = { State.resetWith s.params with
      rst := level, inputs := s.inputs, dropped := (s.hardReset level).dropped, resp := .silent } := rfl

/-- While `rst_i` is asserted, and when it is released, driving it takes every piece of state. -/
theorem State.driveReset_of_asserted {level : Bool} {s : State} (asserted : level = true ∨ s.rst = true) :
    s.driveReset level = s.hardReset level :=
  if_pos (by simpa using asserted)

/-- The step of a move that asserts, holds or releases `rst_i`. -/
theorem step_reset_move {s : State} {level : Bool} {rest : List Event} (wf : s.params.wf = true)
    (next : s.inputs = .reset level :: rest) (asserted : level = true ∨ s.rst = true) :
    step s = .next ((s.setInputs rest).hardReset level) :=
  (step_input wf next).trans
    (congrArg Host.Outcome.next (State.driveReset_of_asserted (s := s.setInputs rest) asserted))

/-- The one refusal of the HOST port: an access in the window during reset (R200), or one that is not 32 bits wide or
not aligned (R55). -/
theorem hostAccess_refused {a : HostAccess} {offset : Nat} {s : State}
    (inWindow : windowOffset s.params a.addr = some offset) (bad : s.rst = true ∨ a.size ≠ 4 ∨ offset % 4 ≠ 0) :
    hostAccess a s = .next (s.respond .accessError) := by
  have refused : (s.rst || a.size != 4 || offset % 4 != 0) = true := by simpa [or_assoc] using bad
  simp only [hostAccess, inWindow, refused, if_true]

/-- The step of a HOST access in the window during reset. -/
theorem step_host_in_reset {s : State} {a : HostAccess} {rest : List Event} (wf : s.params.wf = true)
    (held : s.rst = true) (next : s.inputs = .host a :: rest) (low : s.params.base.toNat ≤ a.addr.toNat)
    (high : a.addr.toNat < s.params.base.toNat + 32) :
    step s = .next ((s.setInputs rest).respond .accessError) := by
  have inWindow : windowOffset s.params a.addr = some (a.addr.toNat - s.params.base.toNat) :=
    (windowOffset_eq_some wf).2 (by omega)
  exact (step_input wf next).trans (hostAccess_refused (s := s.setInputs rest) inWindow (.inl held))

/-! ### Without a move, and without a meaning (R200) -/

/-- With no move to come the block stays as it is (R65, R200). -/
theorem step_of_no_inputs {s : State} (wf : s.params.wf = true) (noInputs : s.inputs = []) : step s = .next s := by
  simp [step, wf, noInputs]

/-- Ill-formed parameters are refused. -/
theorem step_of_not_wf {s : State} (illFormed : s.params.wf = false) : step s = .refused .illFormedParams := by
  simp [step, illFormed]

/-- Parameters whose default address is invalid are ill-formed. -/
theorem wf_eq_false_of_invalid_default {p : Params} (invalid : validAddr p (0#1 ++ p.defaultAddr) = false) :
    p.wf = false := by
  rw [Params.wf, invalid, Bool.and_false]

/-- Settles O35: the step of a reset move leaves the state of `hardReset`, and the other three clauses are the equations
of their kinds of step. -/
theorem resetTakesEveryPieceOfState : Obligations.ResetTakesEveryPieceOfState := by
  refine ⟨fun s level rest wf next asserted => ?taken, fun s a rest wf held next low high => ?refusedAccess,
    fun p wf => ?stays, fun s invalid => ?illFormed⟩
  case taken =>
    exact ⟨_, _, _, step_reset_move wf next asserted, State.hardReset_eq level (s.setInputs rest),
      State.hardReset_done _ level⟩
  case refusedAccess => exact step_host_in_reset wf held next low high
  case stays => exact step_of_no_inputs wf (State.resetWith_inputs p)
  case illFormed => exact step_of_not_wf (wf_eq_false_of_invalid_default invalid)

end Sys2Proof.Machine
end

section
/-! The statements of the decoder (30_encoding.md sections 1 to 4): it inverts the encoder, and it answers a command on
the words the command's rule writes out, which are the encoded ones. -/

namespace Sys2Proof.Machine

/-- A command word is its fields shifted to their places (R80). -/
theorem commandWord_eq_or (d : Half) (sel : Byte) (o : BitVec 4) :
    commandWord d sel 0#4 o = d.zeroExtend 32 <<< 16 ||| sel.zeroExtend 32 <<< 8 ||| o.zeroExtend 32 :=
  word_ext fun k hk => by
    rw [getLsbD_commandWord]
    simp only [BitVec.getLsbD_or, BitVec.getLsbD_shiftLeft, BitVec.truncate_eq_setWidth, BitVec.getLsbD_setWidth, hk]
    split_ifs with op rsvd selector
    · simp [show k < 8 by omega, show k < 16 by omega]
    · simp [rsvd, show k < 16 by omega, show 4 ≤ k by omega]
    · simp [selector, rsvd, show 4 ≤ k by omega, show k - 8 < 32 by omega]
    · simp [selector, show 4 ≤ k by omega, show 8 ≤ k - 8 by omega, show k - 16 < 32 by omega]

/-- The word a command's rule writes out is the encoded one (R89). -/
theorem ruleWord_eq_encode (i : Instr) : ruleWord i = encode i := by
  cases i with
  | nop | crcclr => rfl
  | wr16 r v => exact (commandWord_eq_or v r 0x7#4).symm
  | crcupd x | crcchk x | setaddr x | rd16 x | rd16s x | sendcmd x =>
    rw [encode, commandWord_eq_or, ruleWord, dataOf, selOf, opcodeOf]
    simp

/-- Settles O2, by the words the decoder answers a command on (`decode_eq_legal_iff`). -/
theorem decodeAcceptsExactlyTheRuleWords : Obligations.DecodeAcceptsExactlyTheRuleWords := by
  intro w i
  rw [ruleWord_eq_encode]
  exact decode_eq_legal_iff

/-- Settles O1, by the words of each command: CRCCLR and NOP by OP alone, WR16 by every field, and the others by OP and
SEL. -/
theorem decodeOfEncodeIsIdentity : Obligations.DecodeOfEncodeIsIdentity := by
  intro i
  cases i with
  | nop => exact decode_commandWord_nop _ _
  | crcclr => exact decode_commandWord_crcclr _ _
  | wr16 r v => exact decode_commandWord_wr16 r v
  | _ => exact decode_commandWord_of_selOnly _ rfl

/-- Settles O5: each of the eleven words, evaluated. -/
theorem workedEncodingsDecode : Obligations.WorkedEncodingsDecode := by
  unfold Obligations.WorkedEncodingsDecode
  decide

end Sys2Proof.Machine
end

section
/-! The invariant of the block (Safety.lean): it holds at reset, and every step keeps it. What it says of a block that
waits for nothing is `State.DataOk`, which the named updates of State keep; a completion turns it into the invariant,
and so does the issue of the request of the command in CMD. -/

namespace Sys2Proof.Machine

/-! ### Addresses and values -/

/-- A valid candidate is its low seven bits with bit 7 clear (R133). -/
theorem zero_append_candidateAddr {p : Params} {a : Byte} (valid : validAddr p a = true) :
    0#1 ++ candidateAddr a = a := by
  obtain ⟨-, low, -⟩ := validAddr_iff.1 valid
  have clear : a.msb = false := by
    rw [BitVec.msb_eq_false_iff_two_mul_lt]
    omega
  refine BitVec.eq_of_getLsbD_eq fun k hk => ?_
  rw [BitVec.getLsbD_append, candidateAddr, BitVec.getLsbD_extractLsb']
  by_cases h : k < 7
  · simp [h]
  · obtain rfl : k = 7 := by omega
    simpa [BitVec.msb_eq_getLsbD_last] using clear.symm

/-- R35: a 16-bit value, zero- or sign-extended. -/
def IsExtended (w : Word) : Prop := w = zext32 (w.extractLsb' 0 16) ∨ w = sext32 (w.extractLsb' 0 16)

theorem isExtended_zero : IsExtended 0x00000000#32 := .inl (by decide)

theorem extractLsb'_zext32 (v : Half) : (zext32 v).extractLsb' 0 16 = v :=
  BitVec.eq_of_getLsbD_eq fun k hk => by simp [zext32, hk, show k < 32 by omega]

theorem extractLsb'_sext32 (v : Half) : (sext32 v).extractLsb' 0 16 = v :=
  BitVec.eq_of_getLsbD_eq fun k hk => by
    rw [sext32, BitVec.getLsbD_extractLsb', Nat.zero_add, BitVec.getLsbD_signExtend]
    simp [hk, show k < 32 by omega]

/-- What a read delivers is a 16-bit value extended. -/
theorem isExtended_delivered (signed : Bool) (v : Half) : IsExtended (if signed then sext32 v else zext32 v) := by
  cases signed with
  | false => exact .inl (congrArg zext32 (extractLsb'_zext32 v).symm)
  | true => exact .inr (congrArg sext32 (extractLsb'_sext32 v).symm)

/-! ### The part of the invariant that no completion can break -/

/-- Well-formed parameters, a valid address, and in RESULT a 16-bit value, 0 without VALID (R27, R33, R35, R200). -/
def State.DataOk (s : State) : Prop :=
  s.params.wf = true ∧ validAddr s.params (0#1 ++ s.addr) = true ∧
    (s.valid = false → s.result = 0x00000000#32) ∧ IsExtended s.result

theorem State.Inv.dataOk {s : State} (inv : s.Inv) : s.DataOk :=
  ⟨inv.paramsWf, inv.addrValid, inv.discarded, inv.extended⟩

theorem State.DataOk.setAddr {s : State} {a : Byte} (ok : s.DataOk) (valid : validAddr s.params a = true) :
    (s.setAddr (candidateAddr a)).DataOk := by
  obtain ⟨wf, -, discarded, extended⟩ := ok
  exact ⟨wf, by simpa [zero_append_candidateAddr valid] using valid, discarded, extended⟩

theorem State.DataOk.clearResult {s : State} (ok : s.DataOk) : s.clearResult.DataOk := by
  obtain ⟨wf, addr, -, -⟩ := ok
  exact ⟨wf, addr, fun _ => rfl, isExtended_zero⟩

theorem State.DataOk.deliver {s : State} {w : Word} (ok : s.DataOk) (extended : IsExtended w) :
    (s.deliver w).DataOk := by
  obtain ⟨wf, addr, -, -⟩ := ok
  exact ⟨wf, addr, nofun, extended⟩

/-- A completion out of reset meets the invariant (R172). -/
theorem State.DataOk.complete {s : State} (ok : s.DataOk) (running : s.rst = false) (e : ErrCode) :
    (s.complete e).Inv := by
  obtain ⟨wf, addr, discarded, extended⟩ := ok
  exact ⟨wf, addr, e.code_le, iff_of_false nofun nofun, discarded, extended, nofun,
    fun held => absurd (running.symm.trans held) nofun⟩

/-- The issue of a request meets the invariant when the request is the one that CMD, CRC and RESULT go with (R31). -/
theorem State.DataOk.issue {s : State} {p : Pending} (ok : s.DataOk) (waits : (s.issue p).Waiting p) :
    (s.issue p).Inv := by
  obtain ⟨wf, addr, discarded, extended⟩ := ok
  have known : s.err.toNat ≤ 4 := by simp [show s.err = 0#4 from waits.noError]
  refine ⟨wf, addr, known, iff_of_true rfl rfl, discarded, extended, fun q hq => ?_,
    fun held => absurd (waits.running.symm.trans held) nofun⟩
  cases hq
  exact waits

/-! ### Reset (R37, R200) -/

/-- The reset values meet the invariant, whatever the ports show. -/
theorem inv_resetValues {p : Params} (wf : p.wf = true) (level : Bool) (r : HostResponse) (l : List Event) (n : Nat) :
    ({ State.resetWith p with rst := level, resp := r, inputs := l, dropped := n } : State).Inv where
  paramsWf := wf
  addrValid := by
    rw [Params.wf, Bool.and_eq_true] at wf
    exact wf.2
  errKnown := Nat.zero_le 4
  waiting_iff := iff_of_false nofun nofun
  discarded := fun _ => rfl
  extended := isExtended_zero
  outstanding := nofun
  heldInReset := fun held => by
    cases held
    rfl

/-- Settles O37: the state after reset is the reset values with silent ports. -/
theorem invariantHoldsAtReset : Obligations.InvariantHoldsAtReset :=
  ⟨fun _ wf => inv_resetValues wf false .silent [] 0, inv_resetValues (by decide) false .silent [] 0⟩

/-! ### Steps that touch the ports and the flags only -/

/-- What the ports show and hold, the invariant does not read. -/
theorem State.Inv.ports {s : State} (inv : s.Inv) (r : HostResponse) (l : List Event) (n : Nat) :
    ({ s with resp := r, inputs := l, dropped := n } : State).Inv :=
  { paramsWf := inv.paramsWf
    addrValid := inv.addrValid
    errKnown := inv.errKnown
    waiting_iff := inv.waiting_iff
    discarded := inv.discarded
    extended := inv.extended
    outstanding := fun p hp => by
      obtain ⟨issued, notDone, noError, running, readCleared, checksumKept⟩ := inv.outstanding p hp
      exact ⟨issued, notDone, noError, running, readCleared, checksumKept⟩
    heldInReset := fun held =>
      congrArg (fun u : State => { u with resp := r, inputs := l, dropped := n }) (inv.heldInReset held) }

/-- Out of reset, OVR may take any value and DONE may be cleared (R26, R28). -/
theorem State.Inv.flags {s : State} (inv : s.Inv) (running : s.rst = false) (ovr : Bool) {done : Bool}
    (cleared : s.done = false → done = false) : ({ s with ovr := ovr, done := done } : State).Inv :=
  { paramsWf := inv.paramsWf
    addrValid := inv.addrValid
    errKnown := inv.errKnown
    waiting_iff := inv.waiting_iff
    discarded := inv.discarded
    extended := inv.extended
    outstanding := fun p hp => by
      obtain ⟨issued, notDone, noError, running, readCleared, checksumKept⟩ := inv.outstanding p hp
      exact ⟨issued, cleared notDone, noError, running, readCleared, checksumKept⟩
    heldInReset := fun held => absurd (running.symm.trans held) nofun }

/-! ### The accept (R31) -/

/-- Out of reset, the meaning of the command in CMD leaves the invariant, whatever was outstanding. -/
theorem exec_inv {i : Instr} {s t : State} (ok : s.DataOk) (running : s.rst = false) (hd : decode s.cmd = .legal i)
    (h : exec i s = .next t) : t.Inv := by
  cases i with
  | nop | crcchk => cases h; exact State.DataOk.complete (s := s.beginCommand) ok running _
  | crcclr | crcupd => cases h; exact State.DataOk.complete (s := s.beginCommand.setCrc _) ok running _
  | setaddr a =>
    cases h
    split
    case isTrue valid => exact (State.DataOk.setAddr (s := s.beginCommand) ok valid).complete running _
    case isFalse => exact State.DataOk.complete (s := s.beginCommand) ok running _
  | rd16 | rd16s =>
    cases h
    refine (State.DataOk.clearResult (s := s.beginCommand) ok).issue ?_
    exact ⟨⟨_, hd, rfl⟩, rfl, rfl, running, fun _ => ⟨rfl, rfl⟩, nofun⟩
  | wr16 | sendcmd =>
    cases h
    refine State.DataOk.issue (s := s.beginCommand.setCrc _) ok ?_
    exact ⟨⟨_, hd, rfl⟩, rfl, rfl, running, nofun, fun _ => rfl⟩

/-- Out of reset, the accept of any word leaves the invariant. -/
theorem acceptCommand_inv {v : Word} {s t : State} (ok : s.DataOk) (running : s.rst = false)
    (h : acceptCommand v s = .next t) : t.Inv := by
  rcases acceptCommand_cases h with ⟨i, hd, e⟩ | ⟨_, -, rfl⟩
  · exact exec_inv (s := s.setCmd v) ok running hd e
  · exact State.DataOk.complete (s := (s.setCmd v).beginCommand) ok running _

/-! ### The finish (R141, R150) -/

theorem finishRead_inv {s : State} (ok : s.DataOk) (running : s.rst = false) (signed : Bool) (a : BusAddr)
    (sel : Byte) (ans : Answer) : (finishRead signed a sel ans s).Inv := by
  rcases finishRead_cases signed a sel ans s with e | ⟨lo, hi, p, -, ⟨-, e⟩ | ⟨-, e⟩⟩
  · exact e ▸ ok.complete running _
  · exact e ▸ State.DataOk.complete (s := s.setCrc (crc8 (readCoverage s.params a sel lo hi))) ok running _
  · exact e ▸ (State.DataOk.deliver (s := s.setCrc p) ok (isExtended_delivered signed _)).complete running _

theorem finishWrite_inv {s : State} (ok : s.DataOk) (running : s.rst = false) (ans : Answer) :
    (finishWrite ans s).Inv := by
  rcases finishWrite_cases ans s with ⟨-, e⟩ | ⟨-, e⟩
  · exact e ▸ ok.complete running _
  · exact e ▸ ok.complete running _

theorem finishCommand_inv {s : State} (ok : s.DataOk) (running : s.rst = false) (p : Pending) (ans : Answer) :
    (finishCommand p ans s).Inv := by
  unfold finishCommand
  split
  · exact finishRead_inv ok running ..
  · exact finishRead_inv ok running ..
  · exact finishWrite_inv ok running ans
  · exact finishWrite_inv ok running ans

/-! ### The step -/

/-- Settles O38, by the moves of a step (`step_moves`): an accept and a finish end in a completion or an issue, a reset
in the reset values, and every other move touches the ports and the flags only. -/
theorem everyStepKeepsTheInvariant : Obligations.EveryStepKeepsTheInvariant := by
  intro s t inv h
  cases step_moves h with
  | still _ e => exact e ▸ inv
  | port r rest _ e => exact e ▸ inv.ports r rest s.dropped
  | accept v rest a e =>
    obtain ⟨running, -⟩ := a
    exact acceptCommand_inv (s := (s.setInputs rest).respond .written) inv.dataOk running e
  | drop v rest a e =>
    obtain ⟨running, -⟩ := a
    exact e ▸ (inv.ports .written rest s.dropped).flags running true id
  | status v rest a e =>
    obtain ⟨running, -⟩ := a
    exact e ▸ (inv.ports .written rest s.dropped).flags running _ (fun (low : s.done = false) => by simp [low])
  | answer p ans rest a e =>
    obtain ⟨-, outstanding, -⟩ := a
    have running := (inv.outstanding p outstanding).running
    exact e ▸ finishCommand_inv (s := s.setInputs rest) inv.dataOk running p ans
  | late k rest e => exact e ▸ inv.ports s.resp rest k
  | reset level rest _ e => exact e ▸ inv_resetValues inv.paramsWf level .silent rest _
  | noReset rest e => exact e ▸ inv.ports s.resp rest s.dropped

end Sys2Proof.Machine
end

section
/-! The arithmetic of the checksum (40_crc.md section 1): the table form, linearity, the residue of a correct frame,
single-bit changes, and CRCUPD. All of it rests on the shift register being linear over XOR
(`crcShifts_xor`) and losing no information (`crcShifts_injective`). -/

namespace Sys2Proof.Machine

/-! ### The table form (R102) -/

/-- The table holds, at each byte, what eight turns make of it. -/
theorem crcShifts_eight_eq_table (x : Byte) : crcShifts 8 x = crcTable.getD x.toNat 0x00#8 := by
  revert x
  decide +kernel

/-- Settles O8: both forms look at `c XOR b` alone. -/
theorem crcTableFormAgrees : Obligations.CrcTableFormAgrees := fun c b => crcShifts_eight_eq_table (c ^^^ b)

/-! ### The shift register loses no information -/

/-- A turn makes 0 of 0 alone: the polynomial's bit 0 is set, so a reduced byte is odd. -/
theorem eq_zero_of_crcShift_eq_zero {x : Byte} (h : crcShift x = 0#8) : x = 0#8 := by
  rw [crcShift_eq] at h
  split at h
  case isTrue => simpa using congrArg (·.getLsbD 0) h
  case isFalse clear =>
    rw [← BitVec.msb_eq_getLsbD_last, Bool.not_eq_true, BitVec.msb_eq_false_iff_two_mul_lt] at clear
    have doubled := congrArg BitVec.toNat h
    rw [BitVec.toNat_shiftLeft, Nat.shiftLeft_eq, BitVec.toNat_ofNat] at doubled
    exact BitVec.eq_of_toNat_eq (by rw [BitVec.toNat_ofNat]; omega)

theorem eq_zero_of_crcShifts_eq_zero {n : Nat} {x : Byte} (h : crcShifts n x = 0#8) : x = 0#8 := by
  induction n generalizing x with
  | zero => exact h
  | succ n ih => exact eq_zero_of_crcShift_eq_zero (ih h)

/-- Equal after `n` turns, equal before: by linearity, from what a turn makes of 0. -/
theorem crcShifts_injective (n : Nat) : Function.Injective (crcShifts n) := by
  intro x y h
  have zero : crcShifts n (x ^^^ y) = 0#8 := by rw [crcShifts_xor, h, BitVec.xor_self]
  exact BitVec.xor_eq_zero_iff.1 (eq_zero_of_crcShifts_eq_zero zero)

/-- No two bytes have the same effect on one accumulator. -/
theorem crc8Byte_right_injective (c : Byte) : Function.Injective (crc8Byte c) := fun _ _ h =>
  (BitVec.xor_right_inj c).1 (crcShifts_injective 8 h)

/-- Feeding the same bytes to two accumulators leaves them equal only if they were. -/
theorem foldl_crc8Byte_injective (s : List Byte) : Function.Injective (fun c => s.foldl crc8Byte c) := by
  intro c d h
  simp only [foldl_crc8Byte c, foldl_crc8Byte d] at h
  exact crcShifts_injective _ ((BitVec.xor_left_inj _).1 h)

/-- The accumulator meets its own value with 0 (R103 (d)), and no other byte does. -/
theorem crc8Byte_eq_zero_iff {c b : Byte} : crc8Byte c b = 0#8 ↔ c = b := by
  rw [← crc8Byte_self c, (crc8Byte_right_injective c).eq_iff]
  exact eq_comm

/-! ### Laws of a sequence (R103, R104) -/

/-- From the XOR of two accumulators, the XOR of two sequences of one length leads to the XOR of what they lead to. -/
theorem foldl_crc8Byte_zipWith {s t : List Byte} (len : s.length = t.length) (c d : Byte) :
    (List.zipWith (· ^^^ ·) s t).foldl crc8Byte (c ^^^ d) = s.foldl crc8Byte c ^^^ t.foldl crc8Byte d := by
  induction s generalizing t c d with
  | nil =>
    obtain rfl := List.eq_nil_of_length_eq_zero len.symm
    rfl
  | cons a s ih =>
    match t with
    | b :: t =>
      have step := ih (t := t) (by simpa using len) (crc8Byte c a) (crc8Byte d b)
      rwa [← crc8Byte_xor] at step

/-- Settles O10: the first byte fed to 0 is 0, the fold is linear (`foldl_crc8Byte_zipWith`), and the last byte fed is
the accumulator (`crc8Byte_self`). -/
theorem crcIsLinearWithZeroResidue : Obligations.CrcIsLinearWithZeroResidue := by
  refine ⟨fun s => ?leadingZero, fun s t len => ?linear, fun s => ?residue⟩
  case leadingZero => rw [crc8_eq_foldl, List.foldl_cons, crc8Byte_self, crc8_eq_foldl]
  case linear => simpa only [crc8_eq_foldl, BitVec.xor_self] using foldl_crc8Byte_zipWith len 0#8 0#8
  case residue => rw [crc8_concat, crc8Byte_self]

/-- Settles O11: the flipped bit changes the byte, so the accumulator after it, so the accumulator at the end. -/
theorem crcDetectsEverySingleBitChange : Obligations.CrcDetectsEverySingleBitChange := by
  intro before after b k hk same
  simp only [crc8_eq_foldl, List.foldl_append, List.foldl_cons] at same
  have byte : b ^^^ BitVec.twoPow 8 k = b := crc8Byte_right_injective _ (foldl_crc8Byte_injective after same)
  have bit := congrArg (·.getLsbD k) byte
  simp [hk] at bit

/-- Settles O12, by the one byte that brings the accumulator to 0 (`crc8Byte_eq_zero_iff`). -/
theorem bothFormsOfVerificationAgree : Obligations.BothFormsOfVerificationAgree := by
  intro s p
  rw [crc8_concat, crc8Byte_eq_zero_iff]

/-! ### CRCUPD (R111) -/

theorem exec_crcupd (b : Byte) (s : State) :
    exec (.crcupd b) s = .next ((s.beginCommand.setCrc (crc8Byte s.crc b)).complete .ok) := rfl

/-- CRCUPD of each byte, after a command that completed with OK, leaves the fold of the bytes. -/
theorem execAll_crcupd (bytes : List Byte) (c : Byte) (s : State) :
    execAll (bytes.map .crcupd) ((s.beginCommand.setCrc c).complete .ok) =
      .next ((s.beginCommand.setCrc (bytes.foldl crc8Byte c)).complete .ok) := by
  induction bytes generalizing c with
  | nil => rfl
  | cons b bytes ih => exact (execAll_cons (exec_crcupd b _) _).trans (ih (crc8Byte c b))

/-- CRCCLR and CRCUPD of each byte leave the checksum of the bytes. -/
theorem execAll_crcSequence (bytes : List Byte) (s : State) :
    execAll (crcSequence bytes) s = .next ((s.beginCommand.setCrc (crc8 bytes)).complete .ok) := by
  rw [crcSequence, execAll_cons (exec_crcclr s), execAll_crcupd, crc8_eq_foldl]

/-- Settles O15: the whole state CRCUPD leaves (`exec_crcupd`), the laws of one byte, and the sequence of CRCUPDs
(`execAll_crcSequence`). -/
theorem crcupdFeedsOneByte : Obligations.CrcupdFeedsOneByte := by
  refine ⟨fun d b => decode_commandWord_of_selOnly d (i := .crcupd b) rfl, fun b s idle noRequest => ?feeds,
    crc8Byte_self _, crc8Byte_self, crc8Byte_right_injective, fun bytes s idle noRequest => ?sequence,
    by decide +kernel, by decide +kernel⟩
  case feeds =>
    rw [exec_crcupd, State.complete_of_idle (s := s.beginCommand.setCrc (crc8Byte s.crc b)) idle noRequest]
    rfl
  case sequence =>
    rw [← crcSequence, execAll_crcSequence,
      State.complete_of_idle (s := s.beginCommand.setCrc (crc8 bytes)) idle noRequest]
    rfl

end Sys2Proof.Machine
end

section
/-! The checksum as a polynomial remainder (40_crc.md section 1, law (a)). A turn of the shift register multiplies by
`X` in GF(2)[X] modulo the polynomial, so feeding a byte multiplies by `X ^ 8` and adds the byte. Congruences are
equations in `AdjoinRoot crcModulus`, and the checksum is the remainder because a byte has degree below 8. -/

namespace Sys2Proof.Machine

open Polynomial

/-- A byte as a polynomial over GF(2), bit `k` the coefficient of `X ^ k`. -/
noncomputable def bytePoly (b : Byte) : (ZMod 2)[X] := ∑ k ∈ Finset.range 8, if b.getLsbD k then X ^ k else 0

/-- `x^8 + x^2 + x + 1` (R8, R103). -/
noncomputable def crcModulus : (ZMod 2)[X] := X ^ 8 + X ^ 2 + X + 1

/-- A sequence as a polynomial, the first bit of the first byte highest (R103 (a)). -/
noncomputable def messagePoly (s : List Byte) : (ZMod 2)[X] := s.foldl (fun m b => m * X ^ 8 + bytePoly b) 0

theorem messagePoly_concat (s : List Byte) (b : Byte) :
    messagePoly (s ++ [b]) = messagePoly s * X ^ 8 + bytePoly b := by
  simp [messagePoly]

theorem crcModulus_monic : crcModulus.Monic := by
  unfold crcModulus
  monicity!

theorem crcModulus_degree : crcModulus.degree = 8 := by
  unfold crcModulus
  compute_degree!

/-! ### Bytes as polynomials -/

theorem bytePoly_degree_lt (b : Byte) : (bytePoly b).degree < 8 := by
  refine mem_degreeLT.1 (Submodule.sum_mem _ fun k hk => mem_degreeLT.2 ?_)
  split
  · rw [degree_X_pow]
    exact_mod_cast Finset.mem_range.1 hk
  · exact WithBot.bot_lt_coe 8

@[simp] theorem bytePoly_zero : bytePoly 0#8 = 0 := by simp [bytePoly]

/-- XOR of bytes is addition over GF(2). -/
theorem bytePoly_xor (a b : Byte) : bytePoly (a ^^^ b) = bytePoly a + bytePoly b := by
  rw [bytePoly, bytePoly, bytePoly, ← Finset.sum_add_distrib]
  refine Finset.sum_congr rfl fun k _ => ?_
  rw [BitVec.getLsbD_xor]
  cases a.getLsbD k <;> cases b.getLsbD k <;> simp [CharTwo.add_self_eq_zero]

/-- Times `X` is a shift left, the bit shifted out standing at `X ^ 8`. -/
theorem bytePoly_mul_X (c : Byte) : bytePoly c * X = bytePoly (c <<< 1) + if c.msb then X ^ 8 else 0 := by
  have shifted : bytePoly (c <<< 1) = ∑ k ∈ Finset.range 7, if c.getLsbD k then X ^ (k + 1) else 0 := by
    rw [bytePoly, Finset.sum_range_succ']
    have lowest : (c <<< 1).getLsbD 0 = false := by simp
    simp only [lowest, Bool.false_eq_true, if_false, add_zero]
    refine Finset.sum_congr rfl fun k hk => ?_
    have inByte : k + 1 < 8 := Nat.succ_lt_succ (Finset.mem_range.1 hk)
    rw [BitVec.getLsbD_shiftLeft, Nat.add_sub_cancel]
    simp [-BitVec.getLsbD_eq_getElem, inByte]
  rw [shifted, bytePoly, Finset.sum_mul, Finset.sum_range_succ, BitVec.msb_eq_getLsbD_last]
  simp only [ite_mul, zero_mul, ← pow_succ]

/-- The polynomial of R8 with its top term put back. -/
theorem bytePoly_crcPoly_add : bytePoly crcPoly + X ^ 8 = crcModulus := by
  have low : bytePoly crcPoly = 1 + X + X ^ 2 := by simp [bytePoly, crcPoly, Finset.sum_range_succ]
  rw [low, crcModulus]
  ring

/-- A turn of R100's loop is times `X`, less the polynomial when the bit shifted out is 1. -/
theorem bytePoly_crcShift (c : Byte) :
    bytePoly (crcShift c) = bytePoly c * X + if c.msb then crcModulus else 0 := by
  rw [bytePoly_mul_X, crcShift]
  cases c.msb with
  | false => simp
  | true =>
    simp only [if_true]
    rw [bytePoly_xor, ← bytePoly_crcPoly_add, add_assoc, add_comm (bytePoly crcPoly), ← add_assoc (X ^ 8),
      CharTwo.add_self_eq_zero, zero_add]

/-! ### Modulo the polynomial -/

theorem mk_bytePoly_crcShift (c : Byte) :
    AdjoinRoot.mk crcModulus (bytePoly (crcShift c)) = AdjoinRoot.mk crcModulus (bytePoly c * X) := by
  rw [bytePoly_crcShift, map_add, apply_ite (AdjoinRoot.mk crcModulus), AdjoinRoot.mk_self, map_zero, ite_self,
    add_zero]

theorem mk_bytePoly_crcShifts (n : Nat) (c : Byte) :
    AdjoinRoot.mk crcModulus (bytePoly (crcShifts n c)) = AdjoinRoot.mk crcModulus (bytePoly c * X ^ n) := by
  induction n generalizing c with
  | zero => rw [crcShifts, pow_zero, mul_one]
  | succ n ih => rw [crcShifts, ih, map_mul, mk_bytePoly_crcShift, ← map_mul, mul_assoc, ← pow_succ']

/-- The checksum of a sequence is congruent to `M(x) * x^8`, byte by byte from the last. -/
theorem mk_bytePoly_crc8 (s : List Byte) :
    AdjoinRoot.mk crcModulus (bytePoly (crc8 s)) = AdjoinRoot.mk crcModulus (messagePoly s * X ^ 8) := by
  induction s using List.reverseRecOn with
  | nil => simp [messagePoly]
  | append_singleton s b ih =>
    rw [crc8_concat, crc8Byte_eq, mk_bytePoly_crcShifts, bytePoly_xor, messagePoly_concat, map_mul, map_add, ih,
      ← map_add, ← map_mul]

/-- Settles O9: the checksum is congruent to `M(x) * x^8` (`mk_bytePoly_crc8`) and of degree below 8. -/
theorem crcIsThePolynomialRemainder : Obligations.CrcIsThePolynomialRemainder := by
  intro s
  have congruent : (bytePoly (crc8 s)) %ₘ crcModulus = (messagePoly s * X ^ 8) %ₘ crcModulus :=
    modByMonic_eq_of_dvd_sub crcModulus_monic (AdjoinRoot.mk_eq_mk.1 (mk_bytePoly_crc8 s))
  have reduced : bytePoly (crc8 s) %ₘ crcModulus = bytePoly (crc8 s) :=
    (modByMonic_eq_self_iff crcModulus_monic).2 (crcModulus_degree ▸ bytePoly_degree_lt _)
  exact reduced.symm.trans congruent

end Sys2Proof.Machine
end

section
/-! The statements on whole commands (41_framer.md, 60_exceptions.md section 1): RD16S against RD16, what a failed read
leaves, the requests and CRC, and the codes each command ends with. -/

namespace Sys2Proof.Machine

/-! ### Operands (R53, R132) -/

/-- The address byte is the address shifted left (R132). -/
theorem addrByte_toNat (a : BusAddr) : (addrByte a).toNat = 2 * a.toNat := by
  rw [addrByte, BitVec.toNat_append, Nat.shiftLeft_eq]
  simp [Nat.mul_comm]

theorem toNat_pos_of_validAddr {p : Params} {a : BusAddr} (valid : validAddr p (0#1 ++ a) = true) : 0 < a.toNat := by
  obtain ⟨notZero, -⟩ := validAddr_iff.1 valid
  refine Nat.pos_of_ne_zero fun zero => notZero ?_
  obtain rfl : a = 0#7 := BitVec.eq_of_toNat_eq zero
  rfl

/-- Settles O26, by the bits of the two bytes and of the value they make. -/
theorem busDataIsLittleEndian : Obligations.BusDataIsLittleEndian := by
  refine ⟨fun v => ?joined, fun lo hi => ⟨?low, ?high, ?value⟩, fun v => ⟨?zeroExtended, ?signExtended⟩⟩
  case joined =>
    refine BitVec.eq_of_getLsbD_eq fun k hk => ?_
    rw [ofBytes, BitVec.getLsbD_append, lowByte, highByte, BitVec.getLsbD_extractLsb', BitVec.getLsbD_extractLsb']
    split_ifs with low
    · simp [low]
    · simp [show k - 8 < 8 by omega, show 8 + (k - 8) = k by omega]
  case low => exact BitVec.extractLsb'_append_eq_right
  case high => exact BitVec.extractLsb'_append_eq_left
  case value =>
    rw [ofBytes, BitVec.toNat_append, ← Nat.shiftLeft_add_eq_or_of_lt lo.isLt, Nat.shiftLeft_eq, Nat.mul_comm]
  case zeroExtended => exact BitVec.toNat_setWidth_of_le (by decide)
  case signExtended => exact BitVec.toInt_signExtend_of_le (by decide)

/-! ### Reads (R140, R141, R145) -/

/-- The accept of a read leaves no result, and the answer to it is the read's finish (R140, R145). -/
theorem read_accepted {r : Byte} {s t : State} (h : exec (.rd16 r) s = .next t ∨ exec (.rd16s r) s = .next t) :
    t.result = 0x00000000#32 ∧ t.valid = false ∧
      ∃ signed, ∀ ans, blockAnswer ans t = .next (finishRead signed s.addr r ans t) := by
  rcases h with h | h
  · cases h
    exact ⟨rfl, rfl, false, fun _ => rfl⟩
  · cases h
    exact ⟨rfl, rfl, true, fun _ => rfl⟩

/-- A read ends with a code other than OK and keeps RESULT and VALID, or with OK and sets VALID (R27, R141). -/
theorem finishRead_keeps_or_delivers (signed : Bool) (a : BusAddr) (sel : Byte) (ans : Answer) (s : State) :
    let t := finishRead signed a sel ans s
    (t.err ≠ 0#4 ∧ t.valid = s.valid ∧ t.result = s.result) ∨ (t.valid = true ∧ t.err = 0#4) := by
  rcases finishRead_cases signed a sel ans s with e | ⟨lo, hi, p, -, ⟨-, e⟩ | ⟨-, e⟩⟩
  · rw [e]
    exact .inl ⟨(by decide : ErrCode.transport.code ≠ 0#4), rfl, rfl⟩
  · rw [e]
    exact .inl ⟨(by decide : ErrCode.checksum.code ≠ 0#4), rfl, rfl⟩
  · rw [e]
    exact .inr ⟨rfl, rfl⟩

/-- A read that ends with CHECKSUM changes CRC alone, but for the completion (R141). -/
theorem finishRead_of_checksum {signed : Bool} {a : BusAddr} {sel : Byte} {ans : Answer} {s : State}
    (failed : (finishRead signed a sel ans s).err = 2#4) :
    ∃ c, finishRead signed a sel ans s = (s.setCrc c).complete .checksum := by
  rcases finishRead_cases signed a sel ans s with e | ⟨lo, hi, p, -, ⟨-, e⟩ | ⟨-, e⟩⟩
  · rw [e] at failed
    exact absurd failed (by decide : ErrCode.transport.code ≠ 2#4)
  · exact ⟨_, e⟩
  · rw [e] at failed
    exact absurd failed (by decide : ErrCode.ok.code ≠ 2#4)

/-- Settles O25, by what the accept of a read leaves (`read_accepted`) and what a failed finish keeps of it. -/
theorem aFailedReadLeavesNothingToRead : Obligations.AFailedReadLeavesNothingToRead := by
  intro s t r _ accepted
  obtain ⟨result, valid, signed, finish⟩ := read_accepted accepted
  refine ⟨fun ans u answered failed => ?nothing,
    fun lo hi p lo' hi' p' u u' answered answered' failed failed' => ?crcOnly⟩
  case nothing =>
    cases (finish ans).symm.trans answered
    obtain ⟨-, sameValid, sameResult⟩ :=
      (finishRead_keeps_or_delivers signed s.addr r ans t).resolve_right fun ⟨_, ok⟩ => failed ok
    have cleared := sameResult.trans result
    exact ⟨cleared, sameValid.trans valid, cleared⟩
  case crcOnly =>
    cases (finish _).symm.trans answered
    cases (finish _).symm.trans answered'
    obtain ⟨c, e⟩ := finishRead_of_checksum failed
    obtain ⟨c', e'⟩ := finishRead_of_checksum failed'
    rw [e, e']
    rfl

/-- The finish of a read whose third byte is the checksum of the bytes covered (R141). -/
theorem finishRead_of_correct (signed : Bool) {a : BusAddr} {sel lo hi p : Byte} {s : State}
    (correct : crc8 (readCoverage s.params a sel lo hi) = p) : finishRead signed a sel (.ok [lo, hi, p]) s =
      ((s.setCrc p).deliver (if signed then sext32 (ofBytes lo hi) else zext32 (ofBytes lo hi))).complete .ok := by
  simp [finishRead, correct]

/-- The finish of a read whose third byte is not that checksum (R141). -/
theorem finishRead_of_wrong (signed : Bool) {a : BusAddr} {sel lo hi p : Byte} {s : State}
    (wrong : crc8 (readCoverage s.params a sel lo hi) ≠ p) : finishRead signed a sel (.ok [lo, hi, p]) s =
      (s.setCrc (crc8 (readCoverage s.params a sel lo hi))).complete .checksum := by
  simp [finishRead, wrong]

/-- The signed and the unsigned finish of reads issued from one state differ in RESULT alone (R145). -/
theorem finishRead_signed_eq (a : BusAddr) (r : Byte) (ans : Answer) (s : State) (p p' : Pending) :
    finishRead true a r ans (s.issue p') =
      { finishRead false a r ans (s.issue p) with result := (finishRead true a r ans (s.issue p')).result } :=
  match ans with
  | .err | .ok [] | .ok [_] | .ok [_, _] | .ok (_ :: _ :: _ :: _ :: _) => rfl
  | .ok [lo, hi, q] => by
    by_cases correct : crc8 (readCoverage s.params a r lo hi) = q
    · rw [finishRead_of_correct true (s := s.issue p') correct, finishRead_of_correct false (s := s.issue p) correct]
      rfl
    · rw [finishRead_of_wrong true (s := s.issue p') correct, finishRead_of_wrong false (s := s.issue p) correct]
      rfl

/-- Settles O19, by the request the accept leaves outstanding and the read finish on its answer; against RD16 by
`finishRead_signed_eq`. -/
theorem rd16sReadsSignExtended : Obligations.Rd16sReadsSignExtended := by
  refine ⟨fun d r => decode_commandWord_of_selOnly d (i := .rd16s r) rfl,
    fun r s _ _ => ⟨_, rfl, rfl, fun ans => ?finish⟩,
    fun r s t t' u u' ans accepted accepted' answered answered' => ?same, by decide⟩
  case finish => exact (blockAnswer_issue _ ans _).trans (congrArg _ (finishCommand_rd16s s.addr r ans _))
  case same =>
    cases accepted
    cases accepted'
    cases answered
    cases answered'
    exact ⟨rfl, finishRead_signed_eq s.addr r ans s.beginCommand.clearResult _ _⟩

/-- Settles O47: CRCCHK's completion keeps RESULT and VALID, and RD16's accept clears both. -/
theorem aNextCommandOverwritesTheOutcome : Obligations.ANextCommandOverwritesTheOutcome := by
  intro s t _ _ valid
  refine ⟨fun p h => ?check, fun r h => ?read⟩
  case check =>
    cases h
    refine ⟨rfl, valid, ?_⟩
    rw [State.complete_err, code_of_check]
    split <;> simp [*]
  case read =>
    cases h
    exact ⟨rfl, rfl, rfl, rfl⟩

/-! ### Requests (R132, R141) -/

/-- The accept of a command that issues a request leaves it outstanding (R31). -/
theorem exec_pending {i : Instr} {s t : State} (requests : requestOf i s.addr ≠ none) (h : exec i s = .next t) :
    t.pending = requestOf i s.addr := by
  rcases exec_request h with ⟨noRequest, -⟩ | ⟨p, request, -, pending, -⟩
  · exact absurd noRequest requests
  · exact pending.trans request.symm

/-- Settles O23: the range of an address other than 0, and the request an accept leaves (`exec_pending`), which CRC is
no part of. -/
theorem framesStartFromTheAddressByteNotFromCrc : Obligations.FramesStartFromTheAddressByteNotFromCrc := by
  refine ⟨fun s valid => ?range, fun i s t t' x requests h h' => ?request⟩
  case range =>
    have positive := toNat_pos_of_validAddr valid
    have below := s.addr.isLt
    rw [addrByte_toNat]
    omega
  case request =>
    have issued := exec_pending requests h
    exact ⟨issued, (exec_pending (s := { s with crc := x }) requests h').trans issued.symm⟩

/-! ### The codes of each command (R171) -/

/-- The accept of a command leaves a code of its row: of a completion, or 0 while it waits (R29). -/
theorem exec_err_mem {i : Instr} {s t : State} (h : exec i s = .next t) : t.err ∈ endCodes i := by
  cases i with
  | setaddr a =>
    cases h
    rw [apply_ite State.err]
    split <;> simp [endCodes]
  | crcchk p =>
    cases h
    rw [State.complete_err, code_of_check]
    split <;> simp [endCodes]
  | nop | crcclr | crcupd => cases h; exact List.mem_singleton_self _
  | _ => cases h; exact List.mem_cons_self ..

theorem finishRead_err_mem (signed : Bool) (a : BusAddr) (sel : Byte) (ans : Answer) (s : State) :
    (finishRead signed a sel ans s).err ∈ [0#4, 1#4, 2#4] := by
  rcases finishRead_cases signed a sel ans s with e | ⟨lo, hi, p, -, ⟨-, e⟩ | ⟨-, e⟩⟩ <;> simp [e]

theorem finishWrite_err_mem (ans : Answer) (s : State) : (finishWrite ans s).err ∈ [0#4, 1#4] := by
  rcases finishWrite_cases ans s with ⟨-, e⟩ | ⟨-, e⟩ <;> simp [e]

/-- The finish of the command that issued the request leaves a code of that command's row, on any answer. -/
theorem finishCommand_err_mem {i : Instr} {a : BusAddr} {p : Pending} (issued : requestOf i a = some p) (ans : Answer)
    (s : State) : (finishCommand p ans s).err ∈ endCodes i := by
  cases i with
  | rd16 r | rd16s r => cases issued; exact finishRead_err_mem ..
  | wr16 r v => cases issued; exact finishWrite_err_mem ans s
  | sendcmd c => cases issued; exact finishWrite_err_mem ans s
  | _ => cases issued

/-- The step that takes HOST's write of `v` to CMD at a ready block is the meaning of the command `v` spells (R23). -/
theorem step_of_ready {s : State} {v : Word} {i : Instr} {rest : List Event} (ready : s.ready)
    (hd : decode v = .legal i) (next : s.inputs = hostWriteAt s.params 0x00 v :: rest) :
    step s = exec i { s with cmd := v, resp := .written, inputs := rest } := by
  obtain ⟨wf, running, idle, -⟩ := ready
  exact (step_cmd_write wf running idle next).trans (acceptCommand_legal hd _)

/-- Settles O27, by the step of a ready block (`step_of_ready`). -/
theorem stepRunsTheDecodedCommand : Obligations.StepRunsTheDecodedCommand := fun _ _ _ _ => step_of_ready

/-- Settles O24, by the step of the accept (`step_of_ready`), what it leaves of the sequencing state (`exec_request`),
and for a waiting command the step of the answer. -/
theorem everyCommandCompletesWithACodeOfItsRow : Obligations.EveryCommandCompletesWithACodeOfItsRow := by
  refine ⟨fun s v i rest ready hd noRequest next => ?completes, fun s v i ans rest ready hd requests next => ?waits⟩
  case completes =>
    obtain ⟨t, ht⟩ := exec_answers_next i { s with cmd := v, resp := .written, inputs := rest }
    obtain ⟨-, cmd, -, -, -, inputs, -⟩ := exec_keeps ht
    rcases exec_request ht with ⟨-, phase, pending, done⟩ | ⟨p, request, -⟩
    · exact ⟨t, (step_of_ready ready hd next).trans ht, phase, done, pending, cmd, inputs, exec_err_mem ht⟩
    · exact absurd (noRequest.symm.trans request) nofun
  case waits =>
    obtain ⟨t, ht⟩ := exec_answers_next i { s with cmd := v, resp := .written, inputs := .answer ans :: rest }
    obtain ⟨params, cmd, -, -, -, inputs, -⟩ := exec_keeps ht
    rcases exec_request ht with ⟨noRequest, -⟩ | ⟨p, request, phase, pending, done⟩
    · exact absurd noRequest requests
    · have wf : t.params.wf = true := params ▸ ready.1
      obtain ⟨⟨idle, nothing, completed⟩, -, sameCmd, -, -, -, -, taken, -⟩ :=
        finishCommand_keeps p ans (t.setInputs rest)
      exact ⟨t, _, (step_of_ready ready hd next).trans ht, phase, done, pending.trans request.symm,
        step_answer wf phase pending inputs, idle, completed, nothing, sameCmd.trans cmd, taken,
        finishCommand_err_mem request ans _⟩

end Sys2Proof.Machine
end

section
/-! The statements about any step of the machine: which accesses of HOST it refuses, what reset drops, the only writers
of ADDR and RESULT, what ends a wait, and where the machine stops. Each is read off the cases of one step. -/

namespace Sys2Proof.Machine

/-! ### HOST accesses the block does not take (R50, R55) -/

/-- Settles O32, by the offset of the access in the window: the base is aligned, so the offset is as unaligned as the
address. -/
theorem narrowOrUnalignedAccessesAreRefused : Obligations.NarrowOrUnalignedAccessesAreRefused := by
  intro s a rest wf next low high bad
  obtain ⟨aligned, -⟩ := base_of_wf wf
  have inWindow : windowOffset s.params a.addr = some (a.addr.toNat - s.params.base.toNat) :=
    (windowOffset_eq_some wf).2 (by omega)
  have refused : a.size ≠ 4 ∨ (a.addr.toNat - s.params.base.toNat) % 4 ≠ 0 := bad.imp_right (by omega)
  exact (step_input wf next).trans (hostAccess_refused (s := s.setInputs rest) inWindow (.inr refused))

/-- An access that begins outside the window is not the block's (R50). -/
theorem hostAccess_outside {a : HostAccess} {s : State} (outside : windowOffset s.params a.addr = none) :
    hostAccess a s = .next (s.respond .silent) := by
  rw [hostAccess, outside]

/-- Settles O33, by the addresses outside the window (`windowOffset_eq_none`). -/
theorem accessesOutsideTheWindowAreNotTheBlocks : Obligations.AccessesOutsideTheWindowAreNotTheBlocks := by
  intro s a rest wf next outside
  exact (step_input wf next).trans
    (hostAccess_outside (s := s.setInputs rest) ((windowOffset_eq_none wf).2 outside))

/-! ### Reset and late answers (R201) -/

/-- TRANSPORT's answer to a request it still holds is taken off the count alone. -/
theorem lateAnswer_of_dropped {s : State} {k : Nat} (held : s.dropped = k + 1) :
    lateAnswer s = .next { s with dropped := k } := by
  rw [lateAnswer, held]

/-- Settles O36, by the state reset leaves and the effect of a late answer. -/
theorem resetDropsTheRequestAndIgnoresItsAnswer : Obligations.ResetDropsTheRequestAndIgnoresItsAnswer := by
  refine ⟨fun s p rest wf outstanding next => ?drops, fun s ans k rest wf held next => ?ignored⟩
  case drops =>
    refine ⟨_, step_reset_move wf next (.inl rfl), rfl, rfl, ?_⟩
    simp [outstanding]
  case ignored => exact (step_input wf next).trans (lateAnswer_of_dropped (s := s.setInputs rest) held)

/-! ### ADDR and the parameters (R33) -/

/-- No step changes the parameters (R8). -/
theorem step_params {s t : State} (h : step s = .next t) : t.params = s.params := by
  cases step_moves h with
  | accept v rest a e =>
    obtain ⟨params, -⟩ := acceptCommand_keeps e
    exact params
  | answer p ans rest a e =>
    obtain ⟨-, params, -⟩ := finishCommand_keeps p ans (s.setInputs rest)
    exact e ▸ params
  | still _ e | port _ _ _ e | drop _ _ _ e | status _ _ _ e | late _ _ e | reset _ _ _ e | noReset _ e =>
    subst e
    rfl

/-- Of all commands, SETADDR of a valid candidate alone changes ADDR (R134). -/
theorem exec_addr {i : Instr} {s t : State} (h : exec i s = .next t) :
    t.addr = s.addr ∨ ∃ a, i = .setaddr a ∧ validAddr s.params a = true ∧ t.addr = candidateAddr a := by
  cases i with
  | setaddr a =>
    cases h
    split
    case isTrue valid => exact .inr ⟨a, rfl, valid, rfl⟩
    case isFalse => exact .inl rfl
  | _ => cases h; exact .inl rfl

/-- Settles O39, by the moves that touch a register (`step_registers`) and the commands that change ADDR. -/
theorem onlySetaddrWritesAddr : Obligations.OnlySetaddrWritesAddr := by
  refine fun s t h => ⟨step_params h, fun changed => ?_⟩
  rcases step_registers h with ⟨v, rest, a, e⟩ | ⟨p, ans, rest, -, rfl⟩ | r | ⟨-, same, -⟩
  · rcases acceptCommand_cases e with ⟨i, hd, e⟩ | ⟨_, -, rfl⟩
    · obtain ⟨c, rfl, valid, loaded⟩ := (exec_addr e).resolve_left changed
      exact .inl ⟨v, c, a, hd, valid, loaded⟩
    · exact absurd rfl changed
  · obtain ⟨-, -, -, -, same, -⟩ := finishCommand_keeps p ans (s.setInputs rest)
    exact absurd same changed
  · exact .inr r
  · exact absurd same changed

/-! ### RESULT and VALID (R27, R35) -/

/-- Of all commands, the reads alone change RESULT and VALID at their accept, and clear both. -/
theorem exec_result {i : Instr} {s t : State} (h : exec i s = .next t) :
    (t.valid = s.valid ∧ t.result = s.result) ∨
      ((∃ r, i = .rd16 r ∨ i = .rd16s r) ∧ t.valid = false ∧ t.result = 0x00000000#32) := by
  cases i with
  | rd16 r => cases h; exact .inr ⟨⟨r, .inl rfl⟩, rfl, rfl⟩
  | rd16s r => cases h; exact .inr ⟨⟨r, .inr rfl⟩, rfl, rfl⟩
  | setaddr a => cases h; left; split <;> exact ⟨rfl, rfl⟩
  | _ => cases h; exact .inl ⟨rfl, rfl⟩

/-- Of all finishes, that of a read which ends with OK alone changes RESULT and VALID. -/
theorem finishCommand_result (p : Pending) (ans : Answer) (s : State) :
    let t := finishCommand p ans s
    (t.valid = s.valid ∧ t.result = s.result) ∨
      ∃ sel, (p.issuer = .rd16 sel ∨ p.issuer = .rd16s sel) ∧ t.valid = true ∧ t.err = 0#4 := by
  have write : (finishWrite ans s).valid = s.valid ∧ (finishWrite ans s).result = s.result := by
    rcases finishWrite_cases ans s with ⟨-, e⟩ | ⟨-, e⟩ <;> simp [e]
  unfold finishCommand
  split
  case h_1 sel issuer =>
    exact (finishRead_keeps_or_delivers false p.req.addr sel ans s).imp And.right
      fun delivered => ⟨sel, .inl issuer, delivered⟩
  case h_2 sel issuer =>
    exact (finishRead_keeps_or_delivers true p.req.addr sel ans s).imp And.right
      fun delivered => ⟨sel, .inr issuer, delivered⟩
  case h_3 => exact .inl write
  case h_4 => exact .inl write

/-- Settles O41, by the moves that touch a register (`step_registers`) and what commands and finishes do to RESULT and
VALID. -/
theorem onlyReadsWriteResultAndValid : Obligations.OnlyReadsWriteResultAndValid := by
  intro s t h changed
  have notKept : ¬(t.valid = s.valid ∧ t.result = s.result) := not_and_or.2 changed
  rcases step_registers h with ⟨v, rest, a, e⟩ | ⟨p, ans, rest, a, rfl⟩ | r | ⟨-, -, -, result, valid, -⟩
  · rcases acceptCommand_cases e with ⟨i, hd, e⟩ | ⟨_, -, rfl⟩
    · obtain ⟨⟨r, read⟩, cleared⟩ := (exec_result e).resolve_left notKept
      refine .inl ⟨v, r, a, ?_, cleared⟩
      rcases read with rfl | rfl
      · exact .inl hd
      · exact .inr hd
    · exact absurd ⟨rfl, rfl⟩ notKept
  · obtain ⟨sel, issuer, delivered⟩ := (finishCommand_result p ans (s.setInputs rest)).resolve_left notKept
    exact .inr (.inl ⟨p, ans, sel, a, issuer, delivered⟩)
  · exact .inr (.inr r)
  · exact absurd ⟨valid, result⟩ notKept

/-! ### The wait (R65, R202) -/

/-- Settles O43: an accept needs an idle block, and of the other steps an answer and reset alone touch PHASE and PENDING
(`step_sequencing`). -/
theorem onlyAnAnswerOrResetEndsAWait : Obligations.OnlyAnAnswerOrResetEndsAWait := by
  refine ⟨fun s wf _ noInputs => step_of_no_inputs wf noInputs, fun s t _ waiting h ended => ?_⟩
  rcases step_sequencing h with ⟨v, rest, ⟨-, idle, -⟩, -⟩ | ⟨ends, -⟩ | ⟨samePhase, samePending⟩
  · exact absurd (waiting.symm.trans idle) nofun
  · exact ends
  · exact absurd samePending (ended.resolve_left (not_not.2 (samePhase.trans waiting)))

/-- Settles O44: a waiting block of the invariant holds a request, and its finish is a completion
(`finishCommand_keeps`). -/
theorem anAnswerCompletesTheCommand : Obligations.AnAnswerCompletesTheCommand := by
  intro s ans rest inv waiting next
  obtain ⟨p, outstanding⟩ := Option.isSome_iff_exists.1 (inv.waiting_iff.1 waiting)
  obtain ⟨⟨phase, pending, done⟩, -, cmd, ovr, addr, -, -, inputs, -⟩ := finishCommand_keeps p ans (s.setInputs rest)
  exact ⟨_, step_answer inv.paramsWf waiting outstanding next, done, (State.not_busy_iff _).2 phase, done, pending,
    inputs, ovr, cmd, addr⟩

/-! ### Where the machine stops (R66, R200) -/

/-- A move is made when its agent keeps its duty, and is a fault when it does not (R66). -/
theorem perform_outcome (e : Event) (s : State) :
    (e.dutiful s ∧ ∃ t, perform e s = .next t) ∨ (¬e.dutiful s ∧ perform e s = .fault .answerWithoutRequest) := by
  cases e with
  | host a => exact .inl ⟨trivial, hostAccess_answers_next a s⟩
  | reset level => exact .inl ⟨trivial, _, rfl⟩
  | answer ans =>
    cases phase : s.phase <;> cases pending : s.pending <;>
      simp [perform, blockAnswer, Event.dutiful, phase, pending]
  | lateAnswer ans =>
    cases held : s.dropped with
    | zero => exact .inr ⟨not_not.2 held, by rw [perform, lateAnswer, held]⟩
    | succ k => exact .inl ⟨show s.dropped ≠ 0 by simp [held], _, lateAnswer_of_dropped held⟩

/-- The three outcomes of a step, with the states that have each. -/
theorem step_outcome (s : State) :
    (s.params.wf = false ∧ step s = .refused .illFormedParams) ∨
      (s.params.wf = true ∧ (∃ e rest, s.inputs = e :: rest ∧ ¬e.dutiful s) ∧
        step s = .fault .answerWithoutRequest) ∨
      (s.params.wf = true ∧ (¬∃ e rest, s.inputs = e :: rest ∧ ¬e.dutiful s) ∧ ∃ t, step s = .next t) := by
  cases wf : s.params.wf with
  | false => exact .inl ⟨rfl, step_of_not_wf wf⟩
  | true =>
    refine .inr ?_
    cases next : s.inputs with
    | nil => exact .inr ⟨rfl, by simp, s, step_of_no_inputs wf next⟩
    | cons e rest =>
      rw [step_input wf next]
      rcases perform_outcome e (s.setInputs rest) with ⟨duty, made⟩ | ⟨broken, fault⟩
      · refine .inr ⟨rfl, ?_, made⟩
        rintro ⟨e', rest', same, broken⟩
        cases same
        exact broken duty
      · exact .inl ⟨rfl, ⟨e, rest, rfl, broken⟩, fault⟩

/-- Settles O46, by the three outcomes of a step (`step_outcome`). -/
theorem stopsOnlyWhereTheSpecHasNoStep : Obligations.StopsOnlyWhereTheSpecHasNoStep := by
  refine ⟨fun s r => ?fault, fun s r => ?refusal, exec_answers_next⟩
  case fault =>
    rcases step_outcome s with ⟨wf, e⟩ | ⟨wf, broken, e⟩ | ⟨wf, kept, t, e⟩
    · exact iff_of_false (by simp [e]) (by simp [wf])
    · rw [e]
      exact ⟨fun same => ⟨wf, by cases same; rfl, broken⟩, fun ⟨_, same, _⟩ => same ▸ rfl⟩
    · exact iff_of_false (by simp [e]) fun ⟨_, _, broken⟩ => kept broken
  case refusal =>
    rcases step_outcome s with ⟨wf, e⟩ | ⟨wf, -, e⟩ | ⟨wf, -, t, e⟩
    · rw [e]
      exact ⟨fun same => ⟨wf, by cases same; rfl⟩, fun ⟨_, same⟩ => same ▸ rfl⟩
    · exact iff_of_false (by simp [e]) (by simp [wf])
    · exact iff_of_false (by simp [e]) (by simp [wf])

end Sys2Proof.Machine
end

section
/-! The statements of the assembler (30_encoding.md section 5). A line is the encoded words of its commands when its
operands fit, and an encoded word is the number its fields make; a CRC line is the sequence of its bytes. -/

namespace Sys2Proof.Machine

/-! ### Encoded words as numbers (R80) -/

/-- A command word with RSVD = 0 is the number its fields make. -/
theorem commandWord_toNat (d : Half) (sel : Byte) (o : BitVec 4) :
    (commandWord d sel 0#4 o).toNat = d.toNat * 65536 + sel.toNat * 256 + o.toNat := by
  change BitVec.toNat (w := 16 + 8 + 4 + 4) (d ++ sel ++ 0#4 ++ o) = _
  simp only [BitVec.toNat_append]
  rw [← Nat.shiftLeft_add_eq_or_of_lt sel.isLt, ← Nat.shiftLeft_add_eq_or_of_lt (0#4).isLt,
    ← Nat.shiftLeft_add_eq_or_of_lt o.isLt]
  simp only [Nat.shiftLeft_eq, BitVec.toNat_ofNat]
  omega

theorem encode_eq_ofNat (i : Instr) :
    encode i = BitVec.ofNat 32 ((dataOf i).toNat * 65536 + (selOf i).toNat * 256 + (opcodeOf i).toNat) := by
  rw [encode, ← commandWord_toNat, BitVec.ofNat_toNat, BitVec.setWidth_eq]

/-- A command whose one operand is the byte `n` is the word `n * 256 + OP` (R89). -/
theorem encode_of_byte {i : Instr} {n : Nat} (fits : n < 256) (sel : selOf i = BitVec.ofNat 8 n)
    (noData : dataOf i = 0x0000#16) : encode i = BitVec.ofNat 32 (n * 256 + (opcodeOf i).toNat) := by
  rw [encode_eq_ofNat, sel, noData, BitVec.toNat_ofNat n, Nat.mod_eq_of_lt fits]
  simp

/-! ### Lines of commands (R89) -/

/-- A line of commands assembles to their words exactly when its operands fit. -/
theorem assemble_of_commands {addr : BusAddr} {l : AsmLine} {cs : List Instr}
    (commands : asmCommands addr l = some cs) : assemble addr l = if l.wf then some (cs.map encode) else none := by
  cases l with
  | word w => exact absurd commands nofun
  | _ => cases commands; rfl

/-- A line of one command with one byte operand. -/
theorem assemble_of_byte {addr : BusAddr} {l : AsmLine} {i : Instr} {n : Nat} (commands : asmCommands addr l = some [i])
    (wf : l.wf = decide (n < 256)) (sel : selOf i = BitVec.ofNat 8 n) (noData : dataOf i = 0x0000#16) :
    assemble addr l = if n < 256 then some [BitVec.ofNat 32 (n * 256 + (opcodeOf i).toNat)] else none := by
  rw [assemble_of_commands commands, wf]
  by_cases fits : n < 256
  · simp [fits, encode_of_byte fits sel noData]
  · simp [fits]

/-- WR16, the one command with a DATA operand. -/
theorem assemble_wr16 (addr : BusAddr) (r v : Nat) : assemble addr (.wr16 r v) =
    if r < 256 ∧ v < 65536 then some [BitVec.ofNat 32 (v * 65536 + r * 256 + 7)] else none := by
  rw [assemble_of_commands rfl, AsmLine.wf, ← Bool.decide_and]
  by_cases fits : r < 256 ∧ v < 65536
  · have word : encode (.wr16 (BitVec.ofNat 8 r) (BitVec.ofNat 16 v)) = BitVec.ofNat 32 (v * 65536 + r * 256 + 7) := by
      rw [encode_eq_ofNat, dataOf, selOf, opcodeOf, BitVec.toNat_ofNat, BitVec.toNat_ofNat, Nat.mod_eq_of_lt fits.1,
        Nat.mod_eq_of_lt fits.2]
      rfl
    simp [fits, word]
  · simp [fits]

/-! ### Lines of a checksum sequence (R90) -/

/-- CRCCLR and CRCUPD of each byte, as words. -/
theorem map_encode_crcSequence {bytes : List Nat} (fit : ∀ b ∈ bytes, b < 256) :
    (crcSequence (bytes.map (BitVec.ofNat 8))).map encode =
      0x00000001#32 :: bytes.map (fun b => BitVec.ofNat 32 (b * 256 + 2)) := by
  have clear : encode .crcclr = 0x00000001#32 := by decide
  rw [crcSequence, List.map_cons, clear, List.map_map, List.map_map]
  exact congrArg _ (List.map_congr_left fun b hb => encode_of_byte (i := .crcupd _) (fit b hb) rfl rfl)

theorem assemble_crcseq (addr : BusAddr) (bytes : List Nat) : assemble addr (.crcseq bytes) =
    if bytes ≠ [] ∧ ∀ b ∈ bytes, b < 256 then
      some (0x00000001#32 :: bytes.map (fun b => BitVec.ofNat 32 (b * 256 + 2))) else none := by
  have wf : (AsmLine.crcseq bytes).wf = decide (bytes ≠ [] ∧ ∀ b ∈ bytes, b < 256) := by
    rw [AsmLine.wf, Bool.decide_and]
    cases bytes <;> simp [List.all_eq]
  rw [assemble_of_commands rfl, wf]
  by_cases fit : bytes ≠ [] ∧ ∀ b ∈ bytes, b < 256
  · rw [map_encode_crcSequence fit.2]
    simp [fit]
  · simp [fit]

/-- The bytes of a CRCFRAME as numbers: the address byte, the selector and the value low byte first. -/
theorem frameBytes_eq_map (addr : BusAddr) {r v : Nat} :
    [addrByte addr, BitVec.ofNat 8 r, lowByte (BitVec.ofNat 16 v), highByte (BitVec.ofNat 16 v)] =
      [2 * addr.toNat, r, v % 256, v / 256].map (BitVec.ofNat 8) := by
  have address : addrByte addr = BitVec.ofNat 8 (2 * addr.toNat) := by
    rw [← addrByte_toNat, BitVec.ofNat_toNat, BitVec.setWidth_eq]
  have low : lowByte (BitVec.ofNat 16 v) = BitVec.ofNat 8 (v % 256) :=
    BitVec.eq_of_toNat_eq (by simp [lowByte])
  have high : highByte (BitVec.ofNat 16 v) = BitVec.ofNat 8 (v / 256) :=
    BitVec.eq_of_toNat_eq (by
      rw [highByte, BitVec.extractLsb'_toNat, BitVec.toNat_ofNat, BitVec.toNat_ofNat, Nat.shiftRight_eq_div_pow]
      omega)
  rw [address, low, high]
  rfl

theorem frameBytes_lt (addr : BusAddr) {r v : Nat} (fits : r < 256 ∧ v < 65536) :
    ∀ b ∈ [2 * addr.toNat, r, v % 256, v / 256], b < 256 := by
  have address := addr.isLt
  simp only [List.forall_mem_cons, List.not_mem_nil, false_implies, implies_true, and_true]
  omega

theorem assemble_crcframe (addr : BusAddr) (r v : Nat) : assemble addr (.crcframe r v) =
    if r < 256 ∧ v < 65536 then some (0x00000001#32 ::
      [2 * addr.toNat, r, v % 256, v / 256].map (fun b => BitVec.ofNat 32 (b * 256 + 2))) else none := by
  rw [assemble_of_commands rfl, AsmLine.wf, ← Bool.decide_and, frameBytes_eq_map]
  by_cases fits : r < 256 ∧ v < 65536
  · rw [map_encode_crcSequence (frameBytes_lt addr fits)]
    simp [fits]
  · simp [fits]

/-! ### The table of lines (R89, R90) -/

/-- A line is assembled exactly when it is well formed. -/
theorem isSome_assemble (addr : BusAddr) (l : AsmLine) : (assemble addr l).isSome = l.wf := by
  cases l with
  | word w => rw [assemble]; split <;> simp [*]
  | _ => rw [assemble_of_commands rfl]; split <;> simp [*]

theorem assemble_eq_lineWords (addr : BusAddr) (l : AsmLine) : assemble addr l = lineWords addr l := by
  cases l with
  | nop | crcclr => rfl
  | crcupd b => exact assemble_of_byte (i := .crcupd _) rfl rfl rfl rfl
  | crcchk p => exact assemble_of_byte (i := .crcchk _) rfl rfl rfl rfl
  | setaddr a => exact assemble_of_byte (i := .setaddr _) rfl rfl rfl rfl
  | rd16 r => exact assemble_of_byte (i := .rd16 _) rfl rfl rfl rfl
  | rd16s r => exact assemble_of_byte (i := .rd16s _) rfl rfl rfl rfl
  | sendcmd c => exact assemble_of_byte (i := .sendcmd _) rfl rfl rfl rfl
  | erase16 r => exact assemble_of_byte (i := .wr16 _ _) rfl rfl rfl rfl
  | sleep c => exact assemble_of_byte (i := .sendcmd _) rfl rfl rfl rfl
  | wr16 r v => exact assemble_wr16 addr r v
  | word w => simp [assemble, AsmLine.wf, lineWords]
  | crcseq bytes => exact assemble_crcseq addr bytes
  | crcframe r v => exact assemble_crcframe addr r v

/-- Settles O49, form by form (`assemble_eq_lineWords`). -/
theorem theAssemblerRejectsOperandsThatDoNotFit : Obligations.TheAssemblerRejectsOperandsThatDoNotFit :=
  fun addr l => ⟨assemble_eq_lineWords addr l, isSome_assemble addr l⟩

/-- Settles O48: ERASE16 and SLEEP are the words of WR16 and SENDCMD, and the checksum lines the words of their
bytes. -/
theorem pseudoCommandsExpandAsTheTableSays : Obligations.PseudoCommandsExpandAsTheTableSays := by
  refine ⟨fun addr r => ?erase, fun _ _ => rfl, fun addr b bytes fit => ?sequence, fun addr r v hr hv => ?frame⟩
  case erase =>
    have sameWf : (AsmLine.erase16 r).wf = (AsmLine.wr16 r 0x0000).wf := (Bool.and_true _).symm
    rw [assemble_of_commands (l := .erase16 r) rfl, assemble_of_commands (l := .wr16 r 0x0000) rfl, sameWf]
  case sequence => rw [assemble_crcseq, if_pos ⟨List.cons_ne_nil b bytes, fit⟩]
  case frame =>
    rw [assemble_crcframe, if_pos ⟨hr, hv⟩, assemble_crcseq,
      if_pos ⟨List.cons_ne_nil _ _, frameBytes_lt addr ⟨hr, hv⟩⟩]

end Sys2Proof.Machine
end
